-- ==== Sys2Proof/Word.lean ====
section
/-! DEFINITION. The machine's smallest unit of data.

The input sequence, the sliding window and the scanline buffers are all made of 8-bit bytes
(00_scope.md R6 "byte width", 10_state.md R42); bit 0 of any value is its least significant bit (R9). -/

namespace Sys2Proof

/-- One byte (R6). -/
abbrev Byte := BitVec 8

/-- A 32-bit field of the PNG and zlib framing (R118, R116). -/
abbrev Word := BitVec 32

end Sys2Proof
end

