-- ==== Sys2Proof/Config.lean ====
section
/-! DEFINITION. What an implementation fixes: the parameters of 00_scope.md R6.

Everything the spec leaves to an implementation and does not fix by a rule stands here. The spec has
one such parameter, `S_MAX` (decision D39). No value of the spec is undefined after an operation that
goes on, so the model has no free value. -/

namespace Sys2Proof

/-- `WSIZE`: the size in bytes of the circular sliding window (R6, R30, decision D12). -/
def Config.winSize : Nat := 32768

/-- The Adler-32 modulus (R6, R141). -/
def Config.adlerMod : Nat := 65521

/-- `S_MAX`: the largest scanline length an implementation can buffer; `none` is the spec's default,
no limit (R6, R359, decision D39, U13). Log entry 3. -/
def Config.sMax : Option Nat := none

/-- Does an implementation with the buffer size `sMax` take an image whose scanlines are `n` bytes
long (R359, decision D39)? -/
def Config.admitsScanline (n : Nat) : Bool :=
  match Config.sMax with
  | none => true
  | some limit => decide (n ≤ limit)

end Sys2Proof
end

