-- ==== Sys2Proof/Syntax.lean ====
section
/-! DEFINITION. The stream elements (30_encoding.md), as data.

One constructor of `Instr` per row of spec/opcode_table.json: an element's opcode is its constructor
and its immediates are its fields (00_scope.md R3). Bulk data that follows an element (the raw bytes of
a stored block, the payload of a chunk, the S bytes of a filtered scanline) is no immediate: it stays in
the byte source or in the pending buffer and is read by the operation. The Huffman tables stand here too,
because they are what maps a symbol to its bits (R26, R108). -/

namespace Sys2Proof

/-- The fourteen formats of 30_encoding.md (R101 to R121): which element the decoder expects next. -/
inductive Fmt where
  /-- BH, block header (R101). -/
  | bh
  /-- SH, stored-block header, from the byte boundary on (R102). -/
  | sh
  /-- DH, dynamic-block header (R103). -/
  | dh
  /-- CLL, the code-length-code lengths (R104). -/
  | cll
  /-- CLS, a code-length symbol (R105). -/
  | cls
  /-- LLS, a literal/length symbol (R106). -/
  | lls
  /-- DS, a distance symbol (R107). -/
  | ds
  /-- ZH, zlib header (R114). -/
  | zh
  /-- ZD, the DICTID (R115). -/
  | zd
  /-- ZT, zlib trailer (R116). -/
  | zt
  /-- SIG, the PNG signature (R117). -/
  | sig
  /-- CH, a chunk header (R118). -/
  | ch
  /-- IH, the IHDR payload (R120). -/
  | ih
  /-- FS, a filtered scanline of the decompressed stream (R121). -/
  | fs
deriving DecidableEq, Repr

/-- One entry of a Huffman table: the code length of a symbol (0 means absent) and its numeric code,
which exists only when the length is not 0 (R26). -/
structure HufEntry where
  len  : BitVec 4
  code : Option (BitVec 15)
deriving DecidableEq, Repr

/-- A Huffman table (R26): `T.len[i]`, `T.code[i]` for the symbols i below `T.n`, which is the number of
entries, and `T.min`, `T.max`, the least and greatest length present (both 0 when there is none). -/
structure HufTable where
  entries : List HufEntry
  min     : Nat
  max     : Nat
deriving DecidableEq, Repr

/-- A stream element: one constructor per row of spec/opcode_table.json. -/
inductive Instr where
  -- Format BH (R101): the field is BFINAL.
  /-- BLK.STORED (R188). -/
  | blkStored (bfinal : Bool)
  /-- BLK.FIXED (R192). -/
  | blkFixed (bfinal : Bool)
  /-- BLK.DYN (R193). -/
  | blkDyn (bfinal : Bool)
  /-- BLK.RSVD (R194). -/
  | blkRsvd (bfinal : Bool)
  -- Formats SH, DH, CLL (R102 to R104).
  /-- STORED.HDR: LEN and NLEN (R189). -/
  | storedHdr (len nlen : BitVec 16)
  /-- DYN.HDR: the fields HLIT, HDIST, HCLEN before their offsets are added (R195). -/
  | dynHdr (hlit hdist : BitVec 5) (hclen : BitVec 4)
  /-- DYN.CLL: the 3-bit lengths in `CLORD` order (R196). -/
  | dynCll (lens : List (BitVec 3))
  -- Format CLS (R105).
  /-- CL.LEN: the symbol 0 to 15 is the length (R199). -/
  | clLen (len : BitVec 4)
  /-- CL.REP: symbol 16 and its 2 extra bits (R200). -/
  | clRep (extra : BitVec 2)
  /-- CL.ZREP3: symbol 17 and its 3 extra bits (R201). -/
  | clZrep3 (extra : BitVec 3)
  /-- CL.ZREP11: symbol 18 and its 7 extra bits (R202). -/
  | clZrep11 (extra : BitVec 7)
  -- Format LLS (R106).
  /-- LIT: a literal byte (R217). -/
  | lit (b : Byte)
  /-- EOB: symbol 256, end of block (R218). -/
  | eob
  /-- LEN257: match length 3 (R230). -/
  | len257
  /-- LEN258: match length 4 (R231). -/
  | len258
  /-- LEN259: match length 5 (R232). -/
  | len259
  /-- LEN260: match length 6 (R233). -/
  | len260
  /-- LEN261: match length 7 (R234). -/
  | len261
  /-- LEN262: match length 8 (R235). -/
  | len262
  /-- LEN263: match length 9 (R236). -/
  | len263
  /-- LEN264: match length 10 (R237). -/
  | len264
  /-- LEN265: match length 11 + extra (R238). -/
  | len265 (extra : BitVec 1)
  /-- LEN266: match length 13 + extra (R239). -/
  | len266 (extra : BitVec 1)
  /-- LEN267: match length 15 + extra (R240). -/
  | len267 (extra : BitVec 1)
  /-- LEN268: match length 17 + extra (R241). -/
  | len268 (extra : BitVec 1)
  /-- LEN269: match length 19 + extra (R242). -/
  | len269 (extra : BitVec 2)
  /-- LEN270: match length 23 + extra (R243). -/
  | len270 (extra : BitVec 2)
  /-- LEN271: match length 27 + extra (R244). -/
  | len271 (extra : BitVec 2)
  /-- LEN272: match length 31 + extra (R245). -/
  | len272 (extra : BitVec 2)
  /-- LEN273: match length 35 + extra (R246). -/
  | len273 (extra : BitVec 3)
  /-- LEN274: match length 43 + extra (R247). -/
  | len274 (extra : BitVec 3)
  /-- LEN275: match length 51 + extra (R248). -/
  | len275 (extra : BitVec 3)
  /-- LEN276: match length 59 + extra (R249). -/
  | len276 (extra : BitVec 3)
  /-- LEN277: match length 67 + extra (R250). -/
  | len277 (extra : BitVec 4)
  /-- LEN278: match length 83 + extra (R251). -/
  | len278 (extra : BitVec 4)
  /-- LEN279: match length 99 + extra (R252). -/
  | len279 (extra : BitVec 4)
  /-- LEN280: match length 115 + extra (R253). -/
  | len280 (extra : BitVec 4)
  /-- LEN281: match length 131 + extra (R254). -/
  | len281 (extra : BitVec 5)
  /-- LEN282: match length 163 + extra (R255). -/
  | len282 (extra : BitVec 5)
  /-- LEN283: match length 195 + extra (R256). -/
  | len283 (extra : BitVec 5)
  /-- LEN284: match length 227 + extra (R257). -/
  | len284 (extra : BitVec 5)
  /-- LEN285: match length 258 (R258). -/
  | len285
  /-- LL.INV: symbol 286 (`false`) or 287 (`true`) (R259). -/
  | llInv (odd : Bool)
  -- Format DS (R107).
  /-- DIST0: match distance 1 (R260). -/
  | dist0
  /-- DIST1: match distance 2 (R261). -/
  | dist1
  /-- DIST2: match distance 3 (R262). -/
  | dist2
  /-- DIST3: match distance 4 (R263). -/
  | dist3
  /-- DIST4: match distance 5 + extra (R264). -/
  | dist4 (extra : BitVec 1)
  /-- DIST5: match distance 7 + extra (R265). -/
  | dist5 (extra : BitVec 1)
  /-- DIST6: match distance 9 + extra (R266). -/
  | dist6 (extra : BitVec 2)
  /-- DIST7: match distance 13 + extra (R267). -/
  | dist7 (extra : BitVec 2)
  /-- DIST8: match distance 17 + extra (R268). -/
  | dist8 (extra : BitVec 3)
  /-- DIST9: match distance 25 + extra (R269). -/
  | dist9 (extra : BitVec 3)
  /-- DIST10: match distance 33 + extra (R270). -/
  | dist10 (extra : BitVec 4)
  /-- DIST11: match distance 49 + extra (R271). -/
  | dist11 (extra : BitVec 4)
  /-- DIST12: match distance 65 + extra (R272). -/
  | dist12 (extra : BitVec 5)
  /-- DIST13: match distance 97 + extra (R273). -/
  | dist13 (extra : BitVec 5)
  /-- DIST14: match distance 129 + extra (R274). -/
  | dist14 (extra : BitVec 6)
  /-- DIST15: match distance 193 + extra (R275). -/
  | dist15 (extra : BitVec 6)
  /-- DIST16: match distance 257 + extra (R276). -/
  | dist16 (extra : BitVec 7)
  /-- DIST17: match distance 385 + extra (R277). -/
  | dist17 (extra : BitVec 7)
  /-- DIST18: match distance 513 + extra (R278). -/
  | dist18 (extra : BitVec 8)
  /-- DIST19: match distance 769 + extra (R279). -/
  | dist19 (extra : BitVec 8)
  /-- DIST20: match distance 1025 + extra (R280). -/
  | dist20 (extra : BitVec 9)
  /-- DIST21: match distance 1537 + extra (R281). -/
  | dist21 (extra : BitVec 9)
  /-- DIST22: match distance 2049 + extra (R282). -/
  | dist22 (extra : BitVec 10)
  /-- DIST23: match distance 3073 + extra (R283). -/
  | dist23 (extra : BitVec 10)
  /-- DIST24: match distance 4097 + extra (R284). -/
  | dist24 (extra : BitVec 11)
  /-- DIST25: match distance 6145 + extra (R285). -/
  | dist25 (extra : BitVec 11)
  /-- DIST26: match distance 8193 + extra (R286). -/
  | dist26 (extra : BitVec 12)
  /-- DIST27: match distance 12289 + extra (R287). -/
  | dist27 (extra : BitVec 12)
  /-- DIST28: match distance 16385 + extra (R288). -/
  | dist28 (extra : BitVec 13)
  /-- DIST29: match distance 24577 + extra (R289). -/
  | dist29 (extra : BitVec 13)
  /-- DIST.INV: distance symbol 30 (`false`) or 31 (`true`) (R290). -/
  | distInv (odd : Bool)
  -- Formats ZH, ZD, ZT (R114 to R116).
  /-- ZLIB.HDR: CM = 8, FDICT = 0 (R301). -/
  | zlibHdr (cmf flg : Byte)
  /-- ZLIB.HDR.FDICT: CM = 8, FDICT = 1 (R305). -/
  | zlibHdrFdict (cmf flg : Byte)
  /-- ZLIB.HDR.BADCM: every header with CM other than 8 (R302). -/
  | zlibHdrBadcm (cmf flg : Byte)
  /-- ZLIB.DICTID: four bytes, first byte in bits 31:24; skipped, never interpreted (R305). -/
  | zlibDictid (id : Word)
  /-- ZLIB.TRAILER: the stored Adler-32, big-endian (R308). -/
  | zlibTrailer (adler : Word)
  -- Formats SIG, CH, IH (R117 to R120).
  /-- PNG.SIG: the eight bytes at the start of the file, first byte in bits 63:56 (R321). -/
  | pngSig (bytes : BitVec 64)
  /-- CHUNK.IHDR (R322, R326). -/
  | chunkIhdr (len : Word)
  /-- CHUNK.IDAT (R327 to R331). -/
  | chunkIdat (len : Word)
  /-- CHUNK.IEND (R332). -/
  | chunkIend (len : Word)
  /-- CHUNK.ANC: an unknown ancillary chunk (R333). -/
  | chunkAnc (len ctype : Word)
  /-- CHUNK.CRIT: an unknown critical chunk (R334). -/
  | chunkCrit (len ctype : Word)
  /-- IHDR.PAYLOAD (R350). -/
  | ihdrPayload (width height : Word) (depth colour comp filt ilace : Byte)
  -- Format FS (R121): the S data bytes stay in the pending buffer.
  /-- FLT.NONE (R374). -/
  | fltNone
  /-- FLT.SUB (R375). -/
  | fltSub
  /-- FLT.UP (R376). -/
  | fltUp
  /-- FLT.AVG (R377). -/
  | fltAvg
  /-- FLT.PAETH (R378). -/
  | fltPaeth
  /-- FLT.INV: a filter type byte 5 to 255 (R380). -/
  | fltInv (ftype : Byte)
deriving DecidableEq, Repr

end Sys2Proof
end

