-- ==== Sys2Proof/WellFormed.lean ====
section
/-! DEFINITION. Which terms of `Instr` are elements a stream can hold.

Almost every operand's range is its type's. What is left: the number of code-length-code lengths
(R103, R104), the conditions that separate the rows of one format which share their fields (R114, R119,
R121), and so the priority column of the opcode table (R122). -/

namespace Sys2Proof

/-- CM of a zlib header: bits 3:0 of CMF (R114). -/
def headerCm (cmf : Byte) : Nat := cmf.toNat % 16

/-- FDICT of a zlib header: bit 5 of FLG (R114). -/
def headerFdict (flg : Byte) : Bool := flg.getLsbD 5

/-- Is the chunk type none of IHDR, IDAT, IEND (R119)? -/
def unknownType (ctype : Word) : Bool :=
  ctype != 0x49484452#32 && ctype != 0x49444154#32 && ctype != 0x49454E44#32

/-- The check of one term: what its own row of the opcode table demands of its fields (R122). -/
def Instr.wellFormed : Instr → Bool
  | .dynCll lens => decide (4 ≤ lens.length) && decide (lens.length ≤ 19)
  | .zlibHdr cmf flg => decide (headerCm cmf = 8) && !headerFdict flg
  | .zlibHdrFdict cmf flg => decide (headerCm cmf = 8) && headerFdict flg
  | .zlibHdrBadcm cmf _ => decide (headerCm cmf ≠ 8)
  | .chunkAnc _ ctype => unknownType ctype && ctype.getLsbD 29
  | .chunkCrit _ ctype => unknownType ctype && !ctype.getLsbD 29
  | .fltInv ftype => decide (5 ≤ ftype.toNat)
  | .blkStored _ | .blkFixed _ | .blkDyn _ | .blkRsvd _ => true
  | .storedHdr _ _ | .dynHdr _ _ _ => true
  | .clLen _ | .clRep _ | .clZrep3 _ | .clZrep11 _ => true
  | .lit _ | .eob | .llInv _ | .distInv _ => true
  | .len257 | .len258 | .len259 | .len260 | .len261 | .len262 | .len263 | .len264 => true
  | .len265 _ | .len266 _ | .len267 _ | .len268 _ | .len269 _ | .len270 _ | .len271 _ => true
  | .len272 _ | .len273 _ | .len274 _ | .len275 _ | .len276 _ | .len277 _ | .len278 _ => true
  | .len279 _ | .len280 _ | .len281 _ | .len282 _ | .len283 _ | .len284 _ | .len285 => true
  | .dist0 | .dist1 | .dist2 | .dist3 => true
  | .dist4 _ | .dist5 _ | .dist6 _ | .dist7 _ | .dist8 _ | .dist9 _ | .dist10 _ => true
  | .dist11 _ | .dist12 _ | .dist13 _ | .dist14 _ | .dist15 _ | .dist16 _ | .dist17 _ => true
  | .dist18 _ | .dist19 _ | .dist20 _ | .dist21 _ | .dist22 _ | .dist23 _ | .dist24 _ => true
  | .dist25 _ | .dist26 _ | .dist27 _ | .dist28 _ | .dist29 _ => true
  | .zlibDictid _ | .zlibTrailer _ | .pngSig _ => true
  | .chunkIhdr _ | .chunkIdat _ | .chunkIend _ => true
  | .ihdrPayload _ _ _ _ _ _ _ => true
  | .fltNone | .fltSub | .fltUp | .fltAvg | .fltPaeth => true

end Sys2Proof
end

