-- ==== Sys2Proof/Decode.lean ====
section
/-! DEFINITION. Reading the elements of the stream, and writing them.

The decoder is written once, over a `Reader`: a way to take data bits and bytes from some source. The
machine reads through its own bit accumulator and byte sources (Machine/Operands.lean); `bitReader`
here reads from a plain list of stream bits, so the encoder and the decoder can be compared without a
machine. The Huffman table build (42_huffman.md R165 to R168) and the symbol decoder (R172) stand here
because a code table is part of the encoding (R108). -/

namespace Sys2Proof

/-! ## Results of a read -/

/-- What a read of the stream gives: a value and the source after it; the failure `EOF` (R11); the
failure `CorruptSymbol` of a Huffman decode (R172); or `wait`, when a byte is needed that has not
arrived and the end is not known (R465, decision D3). -/
inductive Rd (σ α : Type) where
  | got (v : α) (s : σ)
  | eof
  | corrupt
  | wait
deriving DecidableEq, Repr

/-- One read after another: the first failure stops the whole (R10, "on EOF"). -/
def Rd.bind {σ α β : Type} (r : Rd σ α) (f : α → σ → Rd σ β) : Rd σ β :=
  match r with
  | .got v s => f v s
  | .eof => .eof
  | .corrupt => .corrupt
  | .wait => .wait

/-- Apply a function to the value read. -/
def Rd.map {σ α β : Type} (f : α → β) (r : Rd σ α) : Rd σ β :=
  r.bind fun v s => .got (f v) s

/-- A source of the stream: `GetDataBits(n)` (R151) and `ByteGet()` (R11). -/
structure Reader (σ : Type) where
  bits : Nat → σ → Rd σ Nat
  byte : σ → Rd σ Byte

/-! ## Stream bits as a list -/

/-- The value of a data field: its first stream bit is its least significant (R72). -/
def natOfBits : List Bool → Nat
  | [] => 0
  | b :: bs => b.toNat + 2 * natOfBits bs

/-- The `n` stream bits of a data field, least significant first (R72). -/
def bitsOfNat : Nat → Nat → List Bool
  | 0, _ => []
  | n + 1, v => decide (v % 2 = 1) :: bitsOfNat n (v / 2)

/-- The `n` stream bits of a Huffman code, most significant first (R73). -/
def codeBits (n v : Nat) : List Bool := (bitsOfNat n v).reverse

/-- The stream bits of a byte sequence: byte 0 first, each from its bit 0 upwards (R72). -/
def bitsOfBytes : List Byte → List Bool
  | [] => []
  | b :: bs => bitsOfNat 8 b.toNat ++ bitsOfBytes bs

/-- `n` bytes holding the stream bits given, zero bits after them (R72). -/
def packBits : Nat → List Bool → List Byte
  | 0, _ => []
  | n + 1, l => BitVec.ofNat 8 (natOfBits (l.take 8)) :: packBits n (l.drop 8)

/-- The bytes of an `n`-byte big-endian value, most significant first (R70). -/
def bytesBE : Nat → Nat → List Byte
  | 0, _ => []
  | n + 1, v => BitVec.ofNat 8 (v / 256 ^ n) :: bytesBE n v

/-- `GetDataBits(n)` on a list of stream bits. -/
def listBits (n : Nat) (l : List Bool) : Rd (List Bool) Nat :=
  if n ≤ l.length then .got (natOfBits (l.take n)) (l.drop n) else .eof

/-- The reader of a plain list of stream bits; a byte is eight data bits. -/
def bitReader : Reader (List Bool) where
  bits := listBits
  byte := fun l => (listBits 8 l).map (BitVec.ofNat 8)

/-! ## Multi-bit reads made of the two primitives -/

/-- `ReadBE(n)` after the value `v` read so far: `n` bytes, the first most significant (R11, R70). -/
def readBE {σ : Type} (R : Reader σ) : Nat → Nat → σ → Rd σ Nat
  | 0, v, s => .got v s
  | n + 1, v, s => (R.byte s).bind fun b s => readBE R n (v * 256 + b.toNat) s

/-- `GetHuffmanBits(n)` after the bits `c` read so far: single data bits, the earlier one higher (R154). -/
def huffBits {σ : Type} (R : Reader σ) : Nat → Nat → σ → Rd σ Nat
  | 0, c, s => .got c s
  | n + 1, c, s => (R.bits 1 s).bind fun b s => huffBits R n (2 * c + b) s

/-! ## Huffman tables (42_huffman.md) -/

/-- The fifteen counts of step 1: `count[L]` for L = 1 to 15 is element L − 1 (R166). -/
def lengthCounts (lens : List (BitVec 4)) : List Nat :=
  (List.range 15).map fun i => lens.countP fun l => decide (l.toNat = i + 1)

/-- `T.min`: the least L in 1 to 15 with a non-zero count, or 0 (R166, decision D6). -/
def minLength (counts : List Nat) : Nat :=
  ((List.range 15).find? fun i => decide (counts.getD i 0 ≠ 0)).elim 0 (· + 1)

/-- `T.max`: the greatest L in 1 to 15 with a non-zero count, or 0 (R166, decision D6). -/
def maxLength (counts : List Nat) : Nat :=
  ((List.range 15).reverse.find? fun i => decide (counts.getD i 0 ≠ 0)).elim 0 (· + 1)

/-- Step 2 from the code `c` of the first length on: `next_code[L+1] = (next_code[L] + count[L]) << 1`,
exact (R167, R169). -/
def firstCodes : List Nat → Nat → List Nat
  | [], c => [c]
  | n :: counts, c => c :: firstCodes counts ((c + n) * 2)

/-- Step 3: symbols in increasing order, each of length L ≠ 0 taking `next_code[L] & ((1 << L) − 1)`
and incrementing `next_code[L]`, which is element L − 1 (R168). Answers the entries and `next_code`. -/
def assignCodes : List (BitVec 4) → List Nat → List HufEntry × List Nat
  | [], next => ([], next)
  | l :: lens, next =>
    if l.toNat = 0 then
      let r := assignCodes lens next
      (⟨l, none⟩ :: r.1, r.2)
    else
      let c := next.getD (l.toNat - 1) 0
      let r := assignCodes lens (next.set (l.toNat - 1) (c + 1))
      (⟨l, some (BitVec.ofNat 15 (c % 2 ^ l.toNat))⟩ :: r.1, r.2)

/-- `HUF.BUILD` on a vector of code lengths: the table (R165). It never fails (decision D8). -/
def hufTable (lens : List (BitVec 4)) : HufTable :=
  let counts := lengthCounts lens
  { entries := (assignCodes lens (firstCodes counts 0)).1, min := minLength counts, max := maxLength counts }

/-- The build scratch `HUF.next_code` as the build leaves it (R27, R168). -/
def hufNextCode (lens : List (BitVec 4)) : List Nat :=
  (assignCodes lens (firstCodes (lengthCounts lens) 0)).2

/-- The symbol, if any, whose (length, code) is (L, c), the smallest if there are several; no symbol
has length 0 (R172, R173). -/
def HufTable.lookup (T : HufTable) (L c : Nat) : Option Nat :=
  if L = 0 then none
  else T.entries.findIdx? fun e => decide (e.len.toNat = L) && decide (e.code.map BitVec.toNat = some c)

/-- The loop of `DecodeSymbol` with `fuel` = `T.max` − L bits still allowed (R172). -/
def decodeLoop {σ : Type} (R : Reader σ) (T : HufTable) : Nat → Nat → Nat → σ → Rd σ Nat
  | fuel, L, c, s =>
    match T.lookup L c with
    | some i => .got i s
    | none =>
      match fuel with
      | 0 => .corrupt
      | fuel + 1 => (R.bits 1 s).bind fun b s => decodeLoop R T fuel (L + 1) (2 * c + b) s

/-- `DecodeSymbol(T)` (R172). -/
def decodeSymbol {σ : Type} (R : Reader σ) (T : HufTable) (s : σ) : Rd σ Nat :=
  (huffBits R T.min 0 s).bind fun c s => decodeLoop R T (T.max - T.min) T.min c s

/-- The stream bits of a symbol: its code, most significant bit first; `none` if it has no code. -/
def HufTable.symbolBits (T : HufTable) (sym : Nat) : Option (List Bool) :=
  (T.entries[sym]?).bind fun e => e.code.map fun c => codeBits e.len.toNat c.toNat

/-- The fixed literal/length code lengths (10_state.md R40). -/
def fixedLitLengths : List (BitVec 4) :=
  List.replicate 144 8#4 ++ List.replicate 112 9#4 ++ List.replicate 24 7#4 ++ List.replicate 8 8#4

/-- The fixed distance code lengths (10_state.md R40). -/
def fixedDistLengths : List (BitVec 4) := List.replicate 30 5#4

/-! ## Constant tables of the formats -/

/-- `LEXT`: extra bits of the length symbols 257 to 285 (R111). -/
def lengthExtra : List Nat :=
  [0,0,0,0,0,0,0,0,1,1,1,1,2,2,2,2,3,3,3,3,4,4,4,4,5,5,5,5,0]

/-- `LBASE`: base lengths of the length symbols 257 to 285 (R111). -/
def lengthBase : List Nat :=
  [3,4,5,6,7,8,9,10,11,13,15,17,19,23,27,31,35,43,51,59,67,83,99,115,131,163,195,227,258]

/-- `DEXT`: extra bits of the distance symbols 0 to 29 (R112). -/
def distExtra : List Nat :=
  [0,0,0,0,1,1,2,2,3,3,4,4,5,5,6,6,7,7,8,8,9,9,10,10,11,11,12,12,13,13]

/-- `DBASE`: base distances of the distance symbols 0 to 29 (R112). -/
def distBase : List Nat :=
  [1,2,3,4,5,7,9,13,17,25,33,49,65,97,129,193,257,385,513,769,1025,1537,2049,3073,4097,6145,8193,
   12289,16385,24577]

/-- `CLORD`: the order in which format CLL lists the code-length symbols (R113). -/
def clOrder : List Nat := [16,17,18,0,8,7,9,6,10,5,11,4,12,3,13,2,14,1,15]

/-- The type code of IHDR (R119). -/
def typeIhdr : Word := 0x49484452#32
/-- The type code of IDAT (R119). -/
def typeIdat : Word := 0x49444154#32
/-- The type code of IEND (R119). -/
def typeIend : Word := 0x49454E44#32

/-! ## Which row of a format an element is -/

/-- The block header of a BTYPE (R101). -/
def blockInstr (bfinal : Bool) (btype : Nat) : Instr :=
  if btype = 0 then .blkStored bfinal
  else if btype = 1 then .blkFixed bfinal
  else if btype = 2 then .blkDyn bfinal
  else .blkRsvd bfinal

/-- The length symbol 257 + i, for i below 29, with its extra bits (R111). -/
def lengthInstr (i e : Nat) : Instr :=
  match i with
  | 0 => .len257
  | 1 => .len258
  | 2 => .len259
  | 3 => .len260
  | 4 => .len261
  | 5 => .len262
  | 6 => .len263
  | 7 => .len264
  | 8 => .len265 (BitVec.ofNat 1 e)
  | 9 => .len266 (BitVec.ofNat 1 e)
  | 10 => .len267 (BitVec.ofNat 1 e)
  | 11 => .len268 (BitVec.ofNat 1 e)
  | 12 => .len269 (BitVec.ofNat 2 e)
  | 13 => .len270 (BitVec.ofNat 2 e)
  | 14 => .len271 (BitVec.ofNat 2 e)
  | 15 => .len272 (BitVec.ofNat 2 e)
  | 16 => .len273 (BitVec.ofNat 3 e)
  | 17 => .len274 (BitVec.ofNat 3 e)
  | 18 => .len275 (BitVec.ofNat 3 e)
  | 19 => .len276 (BitVec.ofNat 3 e)
  | 20 => .len277 (BitVec.ofNat 4 e)
  | 21 => .len278 (BitVec.ofNat 4 e)
  | 22 => .len279 (BitVec.ofNat 4 e)
  | 23 => .len280 (BitVec.ofNat 4 e)
  | 24 => .len281 (BitVec.ofNat 5 e)
  | 25 => .len282 (BitVec.ofNat 5 e)
  | 26 => .len283 (BitVec.ofNat 5 e)
  | 27 => .len284 (BitVec.ofNat 5 e)
  | _ => .len285

/-- The distance symbol d, for d below 30, with its extra bits (R112). -/
def distInstr (d e : Nat) : Instr :=
  match d with
  | 0 => .dist0
  | 1 => .dist1
  | 2 => .dist2
  | 3 => .dist3
  | 4 => .dist4 (BitVec.ofNat 1 e)
  | 5 => .dist5 (BitVec.ofNat 1 e)
  | 6 => .dist6 (BitVec.ofNat 2 e)
  | 7 => .dist7 (BitVec.ofNat 2 e)
  | 8 => .dist8 (BitVec.ofNat 3 e)
  | 9 => .dist9 (BitVec.ofNat 3 e)
  | 10 => .dist10 (BitVec.ofNat 4 e)
  | 11 => .dist11 (BitVec.ofNat 4 e)
  | 12 => .dist12 (BitVec.ofNat 5 e)
  | 13 => .dist13 (BitVec.ofNat 5 e)
  | 14 => .dist14 (BitVec.ofNat 6 e)
  | 15 => .dist15 (BitVec.ofNat 6 e)
  | 16 => .dist16 (BitVec.ofNat 7 e)
  | 17 => .dist17 (BitVec.ofNat 7 e)
  | 18 => .dist18 (BitVec.ofNat 8 e)
  | 19 => .dist19 (BitVec.ofNat 8 e)
  | 20 => .dist20 (BitVec.ofNat 9 e)
  | 21 => .dist21 (BitVec.ofNat 9 e)
  | 22 => .dist22 (BitVec.ofNat 10 e)
  | 23 => .dist23 (BitVec.ofNat 10 e)
  | 24 => .dist24 (BitVec.ofNat 11 e)
  | 25 => .dist25 (BitVec.ofNat 11 e)
  | 26 => .dist26 (BitVec.ofNat 12 e)
  | 27 => .dist27 (BitVec.ofNat 12 e)
  | 28 => .dist28 (BitVec.ofNat 13 e)
  | _ => .dist29 (BitVec.ofNat 13 e)

/-- The row of a zlib header: CM first, then FDICT (R114, R122 priority). -/
def zlibInstr (cmf flg : Byte) : Instr :=
  if headerCm cmf ≠ 8 then .zlibHdrBadcm cmf flg
  else if headerFdict flg then .zlibHdrFdict cmf flg
  else .zlibHdr cmf flg

/-- The row of a chunk header (R335): the three known types, else bit 5 of the first type byte. -/
def chunkInstr (len ctype : Word) : Instr :=
  if ctype = typeIhdr then .chunkIhdr len
  else if ctype = typeIdat then .chunkIdat len
  else if ctype = typeIend then .chunkIend len
  else if ctype.getLsbD 29 then .chunkAnc len ctype
  else .chunkCrit len ctype

/-- The row of a filtered scanline: its filter type byte (R121, R372). -/
def filterInstr (t : Byte) : Instr :=
  if t = 0#8 then .fltNone
  else if t = 1#8 then .fltSub
  else if t = 2#8 then .fltUp
  else if t = 3#8 then .fltAvg
  else if t = 4#8 then .fltPaeth
  else .fltInv t

/-! ## The decoder -/

/-- What the decoder's own state contributes to reading the next element (R100, R108): the tables of
the current block, `INF.hclen`, and `INF.nlens`, the number of code lengths already known. -/
structure Ctx where
  cl    : HufTable
  ll    : HufTable
  dt    : HufTable
  hclen : Nat
  nlens : Nat
deriving DecidableEq, Repr

/-- `n` fields of 3 data bits (R104). -/
def readCll {σ : Type} (R : Reader σ) : Nat → σ → Rd σ (List (BitVec 3))
  | 0, s => .got [] s
  | n + 1, s => (R.bits 3 s).bind fun v s => (readCll R n s).map fun vs => BitVec.ofNat 3 v :: vs

/-- A code-length symbol and its extra bits (R105). Symbol 16 as the first symbol is an error that is
raised before its extra bits are read (R200), so they are not read here; its operand then means nothing. -/
def decodeCls {σ : Type} (R : Reader σ) (c : Ctx) (s : σ) : Rd σ Instr :=
  (decodeSymbol R c.cl s).bind fun sym s =>
    if sym ≤ 15 then .got (.clLen (BitVec.ofNat 4 sym)) s
    else if sym = 16 then
      if c.nlens = 0 then .got (.clRep 0#2) s
      else (R.bits 2 s).map fun e => .clRep (BitVec.ofNat 2 e)
    else if sym = 17 then (R.bits 3 s).map fun e => .clZrep3 (BitVec.ofNat 3 e)
    else if sym = 18 then (R.bits 7 s).map fun e => .clZrep11 (BitVec.ofNat 7 e)
    else .corrupt

/-- A literal/length symbol and its extra bits (R106, R219). -/
def decodeLls {σ : Type} (R : Reader σ) (c : Ctx) (s : σ) : Rd σ Instr :=
  (decodeSymbol R c.ll s).bind fun sym s =>
    if sym ≤ 255 then .got (.lit (BitVec.ofNat 8 sym)) s
    else if sym = 256 then .got .eob s
    else if sym ≤ 285 then
      (R.bits (lengthExtra.getD (sym - 257) 0) s).map fun e => lengthInstr (sym - 257) e
    else if sym ≤ 287 then .got (.llInv (decide (sym = 287))) s
    else .corrupt

/-- A distance symbol and its extra bits; 30 and 31 have none (R107, R220, R290). -/
def decodeDs {σ : Type} (R : Reader σ) (c : Ctx) (s : σ) : Rd σ Instr :=
  (decodeSymbol R c.dt s).bind fun sym s =>
    if sym ≤ 29 then (R.bits (distExtra.getD sym 0) s).map fun e => distInstr sym e
    else if sym ≤ 31 then .got (.distInv (decide (sym = 31))) s
    else .corrupt

/-- The next element of format `f`: total on every source, with the failure named (R100). -/
def decode {σ : Type} (R : Reader σ) (c : Ctx) (f : Fmt) (s : σ) : Rd σ Instr :=
  match f with
  | .bh => (R.bits 1 s).bind fun bfinal s => (R.bits 2 s).map fun btype => blockInstr (decide (bfinal = 1)) btype
  | .sh => (R.bits 16 s).bind fun len s => (R.bits 16 s).map fun nlen =>
      .storedHdr (BitVec.ofNat 16 len) (BitVec.ofNat 16 nlen)
  | .dh => (R.bits 5 s).bind fun hlit s => (R.bits 5 s).bind fun hdist s => (R.bits 4 s).map fun hclen =>
      .dynHdr (BitVec.ofNat 5 hlit) (BitVec.ofNat 5 hdist) (BitVec.ofNat 4 hclen)
  | .cll => (readCll R c.hclen s).map .dynCll
  | .cls => decodeCls R c s
  | .lls => decodeLls R c s
  | .ds => decodeDs R c s
  | .zh => (R.byte s).bind fun cmf s => (R.byte s).map fun flg => zlibInstr cmf flg
  | .zd => (readBE R 4 0 s).map fun v => .zlibDictid (BitVec.ofNat 32 v)
  | .zt => (readBE R 4 0 s).map fun v => .zlibTrailer (BitVec.ofNat 32 v)
  | .sig => (readBE R 8 0 s).map fun v => .pngSig (BitVec.ofNat 64 v)
  | .ch => (readBE R 4 0 s).bind fun len s => (readBE R 4 0 s).map fun ctype =>
      chunkInstr (BitVec.ofNat 32 len) (BitVec.ofNat 32 ctype)
  | .ih => (readBE R 4 0 s).bind fun width s => (readBE R 4 0 s).bind fun height s =>
      (R.byte s).bind fun depth s => (R.byte s).bind fun colour s => (R.byte s).bind fun comp s =>
      (R.byte s).bind fun filt s => (R.byte s).map fun ilace =>
      .ihdrPayload (BitVec.ofNat 32 width) (BitVec.ofNat 32 height) depth colour comp filt ilace
  | .fs => (R.byte s).map filterInstr

/-! ## The encoder, written from the formats of 30_encoding.md -/

/-- The format of an element (R122). -/
def Instr.fmt : Instr → Fmt
  | .blkStored _ | .blkFixed _ | .blkDyn _ | .blkRsvd _ => .bh
  | .storedHdr _ _ => .sh
  | .dynHdr _ _ _ => .dh
  | .dynCll _ => .cll
  | .clLen _ | .clRep _ | .clZrep3 _ | .clZrep11 _ => .cls
  | .lit _ | .eob | .llInv _ => .lls
  | .len257 | .len258 | .len259 | .len260 | .len261 | .len262 | .len263 | .len264 => .lls
  | .len265 _ | .len266 _ | .len267 _ | .len268 _ | .len269 _ | .len270 _ | .len271 _ | .len272 _ => .lls
  | .len273 _ | .len274 _ | .len275 _ | .len276 _ | .len277 _ | .len278 _ | .len279 _ | .len280 _ => .lls
  | .len281 _ | .len282 _ | .len283 _ | .len284 _ | .len285 => .lls
  | .dist0 | .dist1 | .dist2 | .dist3 | .dist4 _ | .dist5 _ | .dist6 _ | .dist7 _ => .ds
  | .dist8 _ | .dist9 _ | .dist10 _ | .dist11 _ | .dist12 _ | .dist13 _ | .dist14 _ | .dist15 _ => .ds
  | .dist16 _ | .dist17 _ | .dist18 _ | .dist19 _ | .dist20 _ | .dist21 _ | .dist22 _ | .dist23 _ => .ds
  | .dist24 _ | .dist25 _ | .dist26 _ | .dist27 _ | .dist28 _ | .dist29 _ => .ds
  | .distInv _ => .ds
  | .zlibHdr _ _ | .zlibHdrFdict _ _ | .zlibHdrBadcm _ _ => .zh
  | .zlibDictid _ => .zd
  | .zlibTrailer _ => .zt
  | .pngSig _ => .sig
  | .chunkIhdr _ | .chunkIdat _ | .chunkIend _ | .chunkAnc _ _ | .chunkCrit _ _ => .ch
  | .ihdrPayload _ _ _ _ _ _ _ => .ih
  | .fltNone | .fltSub | .fltUp | .fltAvg | .fltPaeth | .fltInv _ => .fs

/-- The stream bits of a symbol of table `T` and of its `n` extra bits, the value `e` (R105 to R107). -/
def symbolWord (T : HufTable) (sym n e : Nat) : Option (List Bool) :=
  (T.symbolBits sym).map fun bits => bits ++ bitsOfNat n e

/-- A block header: BFINAL, then BTYPE (R101). -/
def blockWord (bfinal : Bool) (btype : Nat) : Option (List Bool) :=
  some (bfinal :: bitsOfNat 2 btype)

/-- A chunk header: length, then type, both big-endian (R118). -/
def chunkWord (len ctype : Word) : Option (List Bool) :=
  some (bitsOfBytes (bytesBE 4 len.toNat ++ bytesBE 4 ctype.toNat))

/-- The stream bits of an element in a context; `none` only for a symbol to which the context's table
gives no code. -/
def encode (c : Ctx) : Instr → Option (List Bool)
  | .blkStored f => blockWord f 0
  | .blkFixed f => blockWord f 1
  | .blkDyn f => blockWord f 2
  | .blkRsvd f => blockWord f 3
  | .storedHdr len nlen => some (bitsOfNat 16 len.toNat ++ bitsOfNat 16 nlen.toNat)
  | .dynHdr hlit hdist hclen =>
      some (bitsOfNat 5 hlit.toNat ++ bitsOfNat 5 hdist.toNat ++ bitsOfNat 4 hclen.toNat)
  | .dynCll lens => some (lens.flatMap fun l => bitsOfNat 3 l.toNat)
  | .clLen len => symbolWord c.cl len.toNat 0 0
  | .clRep e => symbolWord c.cl 16 2 e.toNat
  | .clZrep3 e => symbolWord c.cl 17 3 e.toNat
  | .clZrep11 e => symbolWord c.cl 18 7 e.toNat
  | .lit b => symbolWord c.ll b.toNat 0 0
  | .eob => symbolWord c.ll 256 0 0
  | .len257 => symbolWord c.ll 257 0 0
  | .len258 => symbolWord c.ll 258 0 0
  | .len259 => symbolWord c.ll 259 0 0
  | .len260 => symbolWord c.ll 260 0 0
  | .len261 => symbolWord c.ll 261 0 0
  | .len262 => symbolWord c.ll 262 0 0
  | .len263 => symbolWord c.ll 263 0 0
  | .len264 => symbolWord c.ll 264 0 0
  | .len265 e => symbolWord c.ll 265 1 e.toNat
  | .len266 e => symbolWord c.ll 266 1 e.toNat
  | .len267 e => symbolWord c.ll 267 1 e.toNat
  | .len268 e => symbolWord c.ll 268 1 e.toNat
  | .len269 e => symbolWord c.ll 269 2 e.toNat
  | .len270 e => symbolWord c.ll 270 2 e.toNat
  | .len271 e => symbolWord c.ll 271 2 e.toNat
  | .len272 e => symbolWord c.ll 272 2 e.toNat
  | .len273 e => symbolWord c.ll 273 3 e.toNat
  | .len274 e => symbolWord c.ll 274 3 e.toNat
  | .len275 e => symbolWord c.ll 275 3 e.toNat
  | .len276 e => symbolWord c.ll 276 3 e.toNat
  | .len277 e => symbolWord c.ll 277 4 e.toNat
  | .len278 e => symbolWord c.ll 278 4 e.toNat
  | .len279 e => symbolWord c.ll 279 4 e.toNat
  | .len280 e => symbolWord c.ll 280 4 e.toNat
  | .len281 e => symbolWord c.ll 281 5 e.toNat
  | .len282 e => symbolWord c.ll 282 5 e.toNat
  | .len283 e => symbolWord c.ll 283 5 e.toNat
  | .len284 e => symbolWord c.ll 284 5 e.toNat
  | .len285 => symbolWord c.ll 285 0 0
  | .llInv odd => symbolWord c.ll (286 + odd.toNat) 0 0
  | .dist0 => symbolWord c.dt 0 0 0
  | .dist1 => symbolWord c.dt 1 0 0
  | .dist2 => symbolWord c.dt 2 0 0
  | .dist3 => symbolWord c.dt 3 0 0
  | .dist4 e => symbolWord c.dt 4 1 e.toNat
  | .dist5 e => symbolWord c.dt 5 1 e.toNat
  | .dist6 e => symbolWord c.dt 6 2 e.toNat
  | .dist7 e => symbolWord c.dt 7 2 e.toNat
  | .dist8 e => symbolWord c.dt 8 3 e.toNat
  | .dist9 e => symbolWord c.dt 9 3 e.toNat
  | .dist10 e => symbolWord c.dt 10 4 e.toNat
  | .dist11 e => symbolWord c.dt 11 4 e.toNat
  | .dist12 e => symbolWord c.dt 12 5 e.toNat
  | .dist13 e => symbolWord c.dt 13 5 e.toNat
  | .dist14 e => symbolWord c.dt 14 6 e.toNat
  | .dist15 e => symbolWord c.dt 15 6 e.toNat
  | .dist16 e => symbolWord c.dt 16 7 e.toNat
  | .dist17 e => symbolWord c.dt 17 7 e.toNat
  | .dist18 e => symbolWord c.dt 18 8 e.toNat
  | .dist19 e => symbolWord c.dt 19 8 e.toNat
  | .dist20 e => symbolWord c.dt 20 9 e.toNat
  | .dist21 e => symbolWord c.dt 21 9 e.toNat
  | .dist22 e => symbolWord c.dt 22 10 e.toNat
  | .dist23 e => symbolWord c.dt 23 10 e.toNat
  | .dist24 e => symbolWord c.dt 24 11 e.toNat
  | .dist25 e => symbolWord c.dt 25 11 e.toNat
  | .dist26 e => symbolWord c.dt 26 12 e.toNat
  | .dist27 e => symbolWord c.dt 27 12 e.toNat
  | .dist28 e => symbolWord c.dt 28 13 e.toNat
  | .dist29 e => symbolWord c.dt 29 13 e.toNat
  | .distInv odd => symbolWord c.dt (30 + odd.toNat) 0 0
  | .zlibHdr cmf flg | .zlibHdrFdict cmf flg | .zlibHdrBadcm cmf flg => some (bitsOfBytes [cmf, flg])
  | .zlibDictid id => some (bitsOfBytes (bytesBE 4 id.toNat))
  | .zlibTrailer adler => some (bitsOfBytes (bytesBE 4 adler.toNat))
  | .pngSig bytes => some (bitsOfBytes (bytesBE 8 bytes.toNat))
  | .chunkIhdr len => chunkWord len typeIhdr
  | .chunkIdat len => chunkWord len typeIdat
  | .chunkIend len => chunkWord len typeIend
  | .chunkAnc len ctype | .chunkCrit len ctype => chunkWord len ctype
  | .ihdrPayload width height depth colour comp filt ilace =>
      some (bitsOfBytes (bytesBE 4 width.toNat ++ bytesBE 4 height.toNat ++ [depth, colour, comp, filt, ilace]))
  | .fltNone => some (bitsOfBytes [0#8])
  | .fltSub => some (bitsOfBytes [1#8])
  | .fltUp => some (bitsOfBytes [2#8])
  | .fltAvg => some (bitsOfBytes [3#8])
  | .fltPaeth => some (bitsOfBytes [4#8])
  | .fltInv t => some (bitsOfBytes [t])

/-! ## The opcode table's numbers -/

/-- The context in which a symbol number of the opcode table is given its bits: the fixed
literal/length table (R40), and complete or incomplete flat 5-bit codes for the 19 code-length and
the 32 distance symbols (for the distance symbols 0 to 29 the fixed code, R110). Log entry 4. -/
def tableCtx : Ctx where
  cl := hufTable (List.replicate 19 5#4)
  ll := hufTable fixedLitLengths
  dt := hufTable (List.replicate 32 5#4)
  hclen := 4
  nlens := 0

/-- The format in which a number of `nbits` bits is read. The table's rows give the opcode value of one
of fourteen formats and a number alone does not say which, so the 8-bit numbers are shared out: the
block headers with BFINAL = 0 keep 0, 2, 4, 6; the filter types 1 and 3; the code-length symbols 16 to
18; the other numbers below 32 are distance symbols and the rest filter types. Log entry 4. -/
def tableFmt (nbits w : Nat) : Option Fmt :=
  if nbits = 0 then some .sh
  else if nbits ≤ 8 then
    if w = 0 ∨ w = 2 ∨ w = 4 ∨ w = 6 then some .bh
    else if w = 1 ∨ w = 3 then some .fs
    else if w = 16 ∨ w = 17 ∨ w = 18 then some .cls
    else if w < 32 then some .ds
    else some .fs
  else if nbits ≤ 16 then (if w < 288 then some .lls else some .zh)
  else if nbits ≤ 32 then some .ch
  else if nbits ≤ 64 then some .sig
  else if nbits ≤ 104 then some .ih
  else none

/-- The stream bits of the element a number of the table stands for, operands above its bits zero:
the code of a symbol, or the bytes of a framing element (a chunk's number is its type field). -/
def tableBits (nbits w : Nat) : List Bool :=
  match tableFmt nbits w with
  | some .bh => bitsOfNat 3 w
  | some .cls => (tableCtx.cl.symbolBits w).getD []
  | some .ds => (tableCtx.dt.symbolBits w).getD []
  | some .lls => (tableCtx.ll.symbolBits w).getD []
  | some .zh => bitsOfBytes (bytesBE 2 w)
  | some .ch => bitsOfBytes (bytesBE 4 0 ++ bytesBE 4 w)
  | some .sig => bitsOfBytes (bytesBE 8 w)
  | some .ih => bitsOfBytes (bytesBE 13 w)
  | some .fs => bitsOfBytes (bytesBE 1 w)
  | _ => []

/-- How many bytes `withFetchWord` and `decodeTableWord` give an element: its bits and then zeros. The
longest element with its CRC is the IHDR payload, 17 bytes. -/
def tableBytes (nbits w : Nat) : List Byte := packBits 24 (tableBits nbits w)

/-- The element the decoder reads from an opcode-table number. -/
def decodeTableWord (nbits w : Nat) : Option Instr :=
  match tableFmt nbits w with
  | none => none
  | some f =>
    match decode bitReader tableCtx f (bitsOfBytes (tableBytes nbits w)) with
    | .got i _ => some i
    | .eof => none
    | .corrupt => none
    | .wait => none

end Sys2Proof
end

