-- ==== Sys2Proof/Machine/State.lean ====
section
/-! DEFINITION. All the state of the decode core (10_state.md), as plain data, and its value at reset.

Registers the spec treats as words are bit vectors of its widths; counts and indexes are naturals, and
`Sys2Proof/Safety.lean` states that every step keeps them within the widths of 10_state.md. A register
that is the fill of a buffer is the buffer's length and is not stored twice (`FLT.k`, `INF.nlens`, `T.n`).
Beside the block's registers the state holds its environment: the input port's queue, the output
transfers still offered, the host's ready signals, the host's actions to come and the transfers made. -/

namespace Sys2Proof.Machine

/-! ## Names -/

/-- `MODE` (R21): 0, 1 or 2. The value 3 is reserved and a start never writes it (U12). -/
inductive Mode where
  | rawDeflate
  | zlib
  | png
deriving DecidableEq, Repr

/-- `STATE` (R21): IDLE, BUSY, DONE; the fourth value is never written. -/
inductive RunState where
  | idle
  | busy
  | done
deriving DecidableEq, Repr

/-- Where the decoder stands: which element it expects, or which operation that no element encodes is
in progress (R100, R122). The spec gives this state no register name. -/
inductive Phase where
  /-- A block header comes next (R187). -/
  | blockHdr
  /-- A stored-block header (R189). -/
  | storedHdr
  /-- The stored copy: `INF.srem` raw bytes left (R190). -/
  | storedCopy
  /-- A dynamic-block header (R195). -/
  | dynHdr
  /-- The code-length-code lengths (R196). -/
  | dynCll
  /-- A code-length symbol (R198). -/
  | codeLens
  /-- A literal/length symbol (R215). -/
  | body
  /-- A distance symbol (R219). -/
  | dist
  /-- The match copy: `INF.crem` bytes left (R222). -/
  | copy
  /-- A zlib header (R301). -/
  | zlibHdr
  /-- The DICTID (R305). -/
  | dictid
  /-- The zlib trailer (R308). -/
  | trailer
  /-- The signature (R321). -/
  | sig
  /-- The header of the first chunk (R322). -/
  | firstChunk
  /-- The IHDR payload (R350). -/
  | ihdr
  /-- The CRC of the IHDR chunk (R361). -/
  | ihdrCrc
  /-- A chunk header of the loop (R325). -/
  | chunk
  /-- The payload and the CRC of a chunk that is skipped: `CHK.clen` + 4 bytes (R328, R333). -/
  | chunkSkip
  /-- The CRC of the IEND chunk (R332). -/
  | iendCrc
  /-- The end of an IDAT run whose frame ended well (R329). -/
  | runEnd
deriving DecidableEq, Repr

/-- The DEFLATE-layer kinds (R403). -/
inductive DeflErr where
  | lengthCorrupt
  | invalidBlockType
  | corruptSymbol
  | endOfStream
  | invalidDynamicReference
  | corruptDistance
  | invalidSymbol
deriving DecidableEq, Repr

/-- The zlib-layer kinds (R402) that the framer raises itself; `DeflateError` is what a DEFLATE kind
becomes there (R411). -/
inductive ZlibErr where
  | prematureEndOfStream
  | unsupportedCompressionMethod
  | headerChecksumError
  | checksumError
deriving DecidableEq, Repr

/-- The PNG-layer kinds (R401) that the chunk iterator and the IHDR parser raise themselves;
`ZlibError` is what a zlib kind becomes there (R412). -/
inductive PngErr where
  | prematureEndOfFile
  | badSignature
  | invalidFirstChunk
  | multipleIhdr
  | invalidWidth
  | invalidHeight
  | invalidColorTypeAndBitDepth
  | unsupportedCompressionMethod
  | unsupportedFilterMethod
  | unsupportedInterlaceMethod
  | unsupportedCriticalChunk
  | unsupportedFilterType
deriving DecidableEq, Repr

/-- An error: a tagged value of one of three layers (R400). -/
inductive ErrKind where
  | deflate (k : DeflErr)
  | zlib (k : ZlibErr)
  | png (k : PngErr)
deriving DecidableEq, Repr

/-- One transfer of an output port. -/
inductive OutXfer where
  /-- A byte on the byte-output port (R62). -/
  | byte (b : Byte)
  /-- The IHDR event with the registers the port shows (R63). -/
  | ihdr (width height : Word) (depth colour comp filt ilace : Byte) (bpp S : Nat)
  /-- A transfer of the scanline port: `sl_row`, `sl_data` (`none` where it is ignored), `sl_first`,
  `sl_last`, `sl_empty` (R64). -/
  | scan (row : Word) (data : Option Byte) (first last empty : Bool)
deriving DecidableEq, Repr

/-- What the host does to the block, one action at a time (R7, R60 to R65). -/
inductive HostEvent where
  /-- `rst` = 1 at a clock edge (R450). -/
  | rst
  /-- `start` = 1 with the value of `mode[1:0]` (R451). -/
  | start (mode : BitVec 2)
  /-- One byte is transferred on the input port (R61). -/
  | xfer (b : Byte)
  /-- `in_end` = 1: no byte will follow (R61). -/
  | inEnd
  /-- `ob_ready` takes a value (R62). -/
  | obReady (ready : Bool)
  /-- `sl_ready` takes a value (R64). -/
  | slReady (ready : Bool)
  /-- The host does nothing and the block makes its own next step. -/
  | pass
deriving DecidableEq, Repr

/-! ## Registers, unit by unit -/

/-- The bit-stream reader (R24): the accumulator, 32 bits, and the count of its valid bits, 5 bits. -/
structure Bsr where
  acc : BitVec 32
  cnt : Nat
deriving DecidableEq, Repr

/-- The Huffman unit (R26, R27): the three tables and the build scratch. `count` element L − 1 is
`HUF.count[L]`, L = 1 to 15; `nextCode` element L − 1 is `HUF.next_code[L]`, L = 1 to 16. -/
structure Huf where
  cl       : HufTable
  ll       : HufTable
  dt       : HufTable
  count    : List Nat
  nextCode : List Nat
deriving DecidableEq, Repr

/-- The DEFLATE block decoder (R28, R29). `INF.nlens` is the length of `lens`. -/
structure Inf where
  bfinal : Bool
  btype  : BitVec 2
  slen   : BitVec 16
  snlen  : BitVec 16
  srem   : Nat
  hlit   : Nat
  hdist  : Nat
  hclen  : Nat
  cll    : List (BitVec 3)
  lens   : List (BitVec 4)
  sym    : BitVec 9
  mlen   : Nat
  dsym   : BitVec 5
  mdist  : Nat
  crem   : Nat
deriving DecidableEq, Repr

/-- A byte memory: (address, byte) pairs by rising address; an address that is not listed holds no
value (U4). Log entry 5. -/
abbrev Memory := List Host.Cell

/-- The sliding window (R30). -/
structure Win where
  mem   : Memory
  wr    : BitVec 15
  fill  : Nat
  total : Nat
deriving DecidableEq, Repr

/-- The Adler-32 sums (R31). -/
structure Adl where
  s1 : BitVec 16
  s2 : BitVec 16
deriving DecidableEq, Repr

/-- The zlib framer (R32). -/
structure Zlf where
  cmf     : Byte
  flg     : Byte
  trailer : Word
deriving DecidableEq, Repr

/-- The PNG chunk iterator (R33). -/
structure Chk where
  clen    : Word
  ctype   : Word
  idatRem : Nat
  runDone : Bool
deriving DecidableEq, Repr

/-- The image header (R34). -/
structure Ihd where
  width  : Word
  height : Word
  depth  : Byte
  colour : Byte
  comp   : Byte
  filt   : Byte
  ilace  : Byte
  bpp    : Nat
  S      : Nat
  valid  : Bool
deriving DecidableEq, Repr

/-- The scanline filter reconstructor (R35, R36). `pend` holds the written part of the pending buffer,
column 0 first, so `FLT.k` is its length; `cur` and `prior` hold the written part of those buffers. -/
structure Flt where
  pend  : List Byte
  cur   : List Byte
  prior : List Byte
  row   : Word
  ferr  : Bool
deriving DecidableEq, Repr

/-! ## Why a step can stop -/

/-- Reasons the machine stops with no next state. Each is safe: the model stops where the spec has no
move for the host, or where it shows that a location is never read. -/
inductive Fault where
  /-- The host asserted `start` while `STATE` = BUSY: `stuck`, the model has no move (R455, U1). Raised by
  `hostStart`. Safe. -/
  | startWhileBusy
  /-- The host started the reserved mode 3: `stuck` (R452, U12). Raised by `hostStart`. Safe. -/
  | startReservedMode
  /-- The host's actions say a byte was transferred while the block is not BUSY, where `in_ready` = 0
  (R61, R450): no such transfer exists. Raised by `hostXfer`. Safe. -/
  | transferNotReady
  /-- The host presented a byte after `in_end`: `stuck` (R455, U1). Raised by `hostXfer`. Safe. -/
  | inputAfterEnd
  /-- A match copy read a window location that holds no value. R82 shows it cannot happen in a run.
  Raised by `copyByte`. Safe. -/
  | windowUnwritten
  /-- A filter read a scanline byte that holds no value. R35 and R83 show it cannot happen in a run.
  Raised by `reconstruct`. Safe. -/
  | scanlineUnwritten
deriving DecidableEq, Repr

/-- Reasons the model gives an instruction no meaning. -/
inductive Refusal where
  /-- The instruction has no meaning yet. Raised by `exec` only. Safe. -/
  | notModelled (mnemonic : String)
  /-- The image's scanlines are longer than the implementation's buffers: "must refuse an image with
  S > `S_MAX`; how is outside this spec" (decision D39, U13). Raised by `execIhdrPayload`; never with the
  default `Config.sMax`. Safe. -/
  | scanlineExceedsSMax
deriving DecidableEq, Repr

/-! ## The state -/

/-- The whole state: the block's registers (R20) and, in the last six fields, its ports' environment. -/
structure State where
  /-- `MODE` (R21). -/
  mode     : Mode
  /-- `STATE` (R21). -/
  runState : RunState
  /-- `POS`, modelled as a natural (R22, decision D4). -/
  pos      : Nat
  /-- `PERR` (R23, R401). -/
  perr     : BitVec 4
  /-- `ZERR` (R23, R402). -/
  zerr     : BitVec 3
  /-- `DERR` (R23, R403). -/
  derr     : BitVec 3
  /-- The sticky end flag of the input port (R61). -/
  inEnd    : Bool
  /-- Which element or operation comes next (R100). -/
  phase    : Phase
  bsr      : Bsr
  huf      : Huf
  inf      : Inf
  win      : Win
  adl      : Adl
  zlf      : Zlf
  chk      : Chk
  ihd      : Ihd
  flt      : Flt
  /-- Bytes transferred on the input port and not yet consumed, oldest first (R61). -/
  fifo     : List Byte
  /-- Output transfers produced and not yet accepted, oldest first (R464). -/
  offer    : List OutXfer
  /-- `ob_ready` (R62). -/
  obReady  : Bool
  /-- `sl_ready` (R64). -/
  slReady  : Bool
  /-- The host's actions to come, the next one first. -/
  host     : List HostEvent
  /-- Every output transfer accepted since the first state, oldest first: what a host has seen (R8). -/
  log      : List OutXfer
deriving DecidableEq, Repr

/-- A table without symbols: how the model starts the three tables, whose reset value the spec leaves
unspecified (R41). DESIGN CHOICE, log entry 6. -/
def HufTable.empty : HufTable where
  entries := []
  min := 0
  max := 0

/-- The machine right after reset (R41, R450). The values R41 leaves unspecified are log entry 6's. -/
def State.reset : State where
  mode := .rawDeflate
  runState := .idle
  pos := 0
  perr := 0#4
  zerr := 0#3
  derr := 0#3
  inEnd := false
  phase := .blockHdr
  bsr := { acc := 0#32, cnt := 0 }
  huf := { cl := HufTable.empty, ll := HufTable.empty, dt := HufTable.empty,
           count := List.replicate 15 0, nextCode := List.replicate 16 0 }
  inf := { bfinal := false, btype := 0#2, slen := 0#16, snlen := 0#16, srem := 0, hlit := 0, hdist := 0,
           hclen := 0, cll := List.replicate 19 0#3, lens := [], sym := 0#9, mlen := 0, dsym := 0#5,
           mdist := 0, crem := 0 }
  win := { mem := [], wr := 0#15, fill := 0, total := 0 }
  adl := { s1 := 1#16, s2 := 0#16 }
  zlf := { cmf := 0#8, flg := 0#8, trailer := 0#32 }
  chk := { clen := 0#32, ctype := 0#32, idatRem := 0, runDone := false }
  ihd := { width := 0#32, height := 0#32, depth := 0#8, colour := 0#8, comp := 0#8, filt := 0#8,
           ilace := 0#8, bpp := 0, S := 0, valid := false }
  flt := { pend := [], cur := [], prior := [], row := 0#32, ferr := false }
  fifo := []
  offer := []
  obReady := true
  slReady := true
  host := []
  log := []

end Sys2Proof.Machine
end

