-- ==== Sys2Proof/Machine/Operands.lean ====
section
/-! DEFINITION. Reading operands: the byte sources and the bit-stream reader.

The primary source is the input port's queue (00_scope.md R11); in mode 2 the zlib framer and everything
below it read through the IDAT feeder (46_png_chunks.md R330). The bit reader (41_bitstream.md) refills
from whichever of the two is current. A read answers `wait` where the spec holds (R465). -/

namespace Sys2Proof.Machine

/-! ## The primary byte source (R11, R61) -/

/-- `ByteGet()` of the primary source: the next transferred byte, `EOF` when the end flag is set and
every byte was consumed, else hold (R61). -/
def primaryGet (s : State) : Rd State Byte :=
  match s.fifo with
  | b :: rest => .got b { s with fifo := rest, pos := s.pos + 1 }
  | [] => if s.inEnd then .eof else .wait

/-- `Skip(n)` of the primary source: all n bytes or a failure (R11). -/
def skip (n : Nat) (s : State) : Rd State Unit :=
  if n ≤ s.fifo.length then .got () { s with fifo := s.fifo.drop n, pos := s.pos + n }
  else if s.inEnd then .eof else .wait

/-- `AtEof()` of the primary source: no byte is left and none will come (R11, R61). -/
def atEof (s : State) : Bool := s.fifo.isEmpty && s.inEnd

/-- The reader of the chunk iterator and the IHDR parser (R11): bytes only, no bit is ever read. -/
def primaryReader : Reader State where
  bits := fun _ _ => .eof
  byte := primaryGet

/-! ## The IDAT feeder (R330, R331) -/

/-- `while CHK.idat_rem = 0`: pass over the CRC of the exhausted chunk and read the next header, which
must be IDAT; any failure is the feeder's `EOF` (R330, R331). Each pass consumes 12 bytes, so a `fuel` of
one more than the bytes at hand is never used up. -/
def feederAdvance : Nat → State → Rd State Unit
  | 0, _ => .wait
  | fuel + 1, s =>
    if s.chk.idatRem ≠ 0 then .got () s
    else
      (skip 4 s).bind fun _ s => (readBE primaryReader 4 0 s).bind fun len s =>
      (readBE primaryReader 4 0 s).bind fun ctype s =>
        if BitVec.ofNat 32 ctype ≠ typeIdat then .eof
        else feederAdvance fuel
          { s with chk := { s.chk with clen := BitVec.ofNat 32 len, ctype := BitVec.ofNat 32 ctype, idatRem := len } }

/-- `FeederGet()` (R330). -/
def feederGet (s : State) : Rd State Byte :=
  (feederAdvance (s.fifo.length + 1) s).bind fun _ s => (primaryGet s).bind fun b s =>
    .got b { s with chk := { s.chk with idatRem := s.chk.idatRem - 1 } }

/-- The current byte source of ZLF, INF, BSR and HUF: the feeder in mode 2, else the primary source (R11). -/
def currentGet (s : State) : Rd State Byte :=
  match s.mode with
  | .png => feederGet s
  | .rawDeflate => primaryGet s
  | .zlib => primaryGet s

/-! ## The bit-stream reader (41_bitstream.md) -/

/-- The refill loop of `GetDataBits(n)`: whole bytes until the accumulator holds n bits (R151). Each pass
adds 8 bits, so n passes are enough. -/
def refill (n : Nat) : Nat → State → Rd State Unit
  | 0, s => .got () s
  | fuel + 1, s =>
    if s.bsr.cnt < n then
      (currentGet s).bind fun b s => refill n fuel
        { s with bsr := { acc := s.bsr.acc ||| (b.zeroExtend 32 <<< s.bsr.cnt), cnt := s.bsr.cnt + 8 } }
    else .got () s

/-- `GetDataBits(n)` (R151, R153). -/
def getDataBits (n : Nat) (s : State) : Rd State Nat :=
  (refill n n s).bind fun _ s =>
    .got (s.bsr.acc.toNat % 2 ^ n) { s with bsr := { acc := s.bsr.acc >>> n, cnt := s.bsr.cnt - n } }

/-- The reader of the zlib framer and of everything below it (R11, R151). -/
def streamReader : Reader State where
  bits := getDataBits
  byte := currentGet

/-- `GetHuffmanBits(n)` (R154). -/
def getHuffmanBits (n : Nat) (s : State) : Rd State Nat := huffBits streamReader n 0 s

/-- `AlignToByte()` (R155). -/
def alignToByte (s : State) : State :=
  if s.bsr.cnt ≠ 0 ∧ s.bsr.cnt ≠ 8 then { s with bsr := { acc := 0#32, cnt := 0 } } else s

/-- `BitEof()`: no buffered bit remains and the byte source is exhausted (R156). In mode 2 the source is
the feeder, which is exhausted when its `ByteGet` would fail (log entry 15). While the next byte has not
arrived and the end flag is clear the answer is `false`: the predicate does not hold as a read does (DESIGN
CHOICE, log entry 22). -/
def bitEof (s : State) : Bool :=
  decide (s.bsr.cnt = 0) &&
    (match currentGet s with
     | .got _ _ => false
     | .eof => true
     | .corrupt => false
     | .wait => false)

/-- What the decoder's state contributes to decoding the next element (R108). -/
def State.ctx (s : State) : Ctx where
  cl := s.huf.cl
  ll := s.huf.ll
  dt := s.huf.dt
  hclen := s.inf.hclen
  nlens := s.inf.lens.length

end Sys2Proof.Machine
end

