-- ==== Sys2Proof/Machine/Ops.lean ====
section
/-! DEFINITION. The operations the meanings share: memory, the window and `Emit`, the Adler-32 unit, the
table build, the error latch and the ends of blocks, streams and runs. -/

namespace Sys2Proof.Machine

/-- What a meaning answers. -/
abbrev Res := Host.Outcome State Fault Refusal

/-! ## Byte memory -/

/-- The byte at an address, if one is there (R80). -/
def Memory.read (m : Memory) (a : Nat) : Option Byte :=
  match m with
  | [] => none
  | (k, v) :: rest => if k = a then some v else if a < k then none else Memory.read rest a

/-- Write one byte, keeping the addresses rising (R79). -/
def Memory.write (m : Memory) (a : Nat) (v : Byte) : Memory :=
  match m with
  | [] => [(a, v)]
  | (k, w) :: rest =>
    if a < k then (a, v) :: (k, w) :: rest
    else if k = a then (a, v) :: rest
    else (k, w) :: Memory.write rest a v

/-- Every address of the memory is above `a` or there is none. -/
def Memory.above (a : Nat) (m : Memory) : Bool :=
  match m with
  | [] => true
  | (k, _) :: _ => decide (a < k)

/-- The canonical form: addresses strictly rising. An unlisted address holds no value, so no entry can
equal what it reads as. -/
def Memory.wf (m : Memory) : Bool :=
  match m with
  | [] => true
  | (k, _) :: rest => Memory.above k rest && Memory.wf rest

/-! ## The Adler-32 unit (40_adler32.md) -/

/-- `ADL.INIT` (R140). -/
def adlerInit : Adl where
  s1 := 1#16
  s2 := 0#16

/-- `ADL.UPDATE(b)`: exact sums, then reduced; the second uses the new `s1` (R141). -/
def adlerUpdate (b : Byte) (a : Adl) : Adl :=
  let s1 := (a.s1.toNat + b.toNat) % Config.adlerMod
  { s1 := BitVec.ofNat 16 s1, s2 := BitVec.ofNat 16 ((a.s2.toNat + s1) % Config.adlerMod) }

/-- `ADL.VALUE` = `(s2 << 16) | s1` (R142). -/
def adlerValue (a : Adl) : Word := a.s2 ++ a.s1

/-! ## The window and `Emit` (44_deflate_symbols.md R216) -/

/-- Write the next decompressed byte at `WIN.wr` and advance (R216, R79). -/
def Win.push (b : Byte) (w : Win) : Win where
  mem := Memory.write w.mem w.wr.toNat b
  wr := w.wr + 1#15
  fill := Nat.min (w.fill + 1) Config.winSize
  total := w.total + 1

/-- The window address of the byte produced D bytes ago: `(WIN.wr − D) mod 32768` (R80, R222). -/
def Win.addrBack (dist : Nat) (w : Win) : Nat := (w.wr - BitVec.ofNat 15 dist).toNat

/-- `FLT.PUSH(b)`: dropped after a latched error, else appended to the pending buffer (R371, R382). The
reconstruction of a complete scanline is the next step (`State.scanlineDue`). -/
def fltPush (b : Byte) (s : State) : State :=
  if s.flt.ferr then s else { s with flt := { s.flt with pend := s.flt.pend ++ [b] } }

/-- `Emit(b)` (R216): window, Adler-32 in modes 1 and 2, then the mode's consumer. -/
def emit (b : Byte) (s : State) : State :=
  match s.mode with
  | .rawDeflate => { s with win := s.win.push b, offer := s.offer ++ [.byte b] }
  | .zlib => { s with win := s.win.push b, adl := adlerUpdate b s.adl, offer := s.offer ++ [.byte b] }
  | .png => fltPush b { s with win := s.win.push b, adl := adlerUpdate b s.adl }

/-! ## Table builds (R165, R27) -/

/-- The build scratch after a build from `lens` (R166 to R168). -/
def Huf.scratch (lens : List (BitVec 4)) (h : Huf) : Huf :=
  { h with count := lengthCounts lens, nextCode := hufNextCode lens }

/-- `HUF.BUILD(CL, lens, n)`. -/
def Huf.buildCl (lens : List (BitVec 4)) (h : Huf) : Huf :=
  { h.scratch lens with cl := hufTable lens }

/-- `HUF.BUILD(LL, lens, n)`. -/
def Huf.buildLl (lens : List (BitVec 4)) (h : Huf) : Huf :=
  { h.scratch lens with ll := hufTable lens }

/-- `HUF.BUILD(DT, lens, n)`. -/
def Huf.buildDt (lens : List (BitVec 4)) (h : Huf) : Huf :=
  { h.scratch lens with dt := hufTable lens }

/-! ## The error latch (60_exceptions.md) -/

/-- The code of a DEFLATE kind (R403). -/
def DeflErr.code : DeflErr → BitVec 3
  | .lengthCorrupt => 1#3
  | .invalidBlockType => 2#3
  | .corruptSymbol => 3#3
  | .endOfStream => 4#3
  | .invalidDynamicReference => 5#3
  | .corruptDistance => 6#3
  | .invalidSymbol => 7#3

/-- The code of a zlib kind (R402). -/
def ZlibErr.code : ZlibErr → BitVec 3
  | .prematureEndOfStream => 1#3
  | .unsupportedCompressionMethod => 2#3
  | .headerChecksumError => 3#3
  | .checksumError => 5#3

/-- The code of the zlib kind `DeflateError` (R402, R411). -/
def deflateErrorCode : BitVec 3 := 4#3

/-- The code of a PNG kind (R401). -/
def PngErr.code : PngErr → BitVec 4
  | .prematureEndOfFile => 1#4
  | .badSignature => 2#4
  | .invalidFirstChunk => 3#4
  | .multipleIhdr => 4#4
  | .invalidWidth => 5#4
  | .invalidHeight => 6#4
  | .invalidColorTypeAndBitDepth => 7#4
  | .unsupportedCompressionMethod => 8#4
  | .unsupportedFilterMethod => 9#4
  | .unsupportedInterlaceMethod => 10#4
  | .unsupportedCriticalChunk => 11#4
  | .unsupportedFilterType => 13#4

/-- The code of the PNG kind `ZlibError` (R401, R412). -/
def zlibErrorCode : BitVec 4 := 12#4

/-- The error latch, the one trap entry of the block (R430): the layer's own register takes the kind, each
layer above takes its umbrella kind (R411, R412), and `STATE` becomes DONE. Nothing is saved and nothing
returns; the ways out are reset and start (R433). All other state stays as it is (R431; log entry 7). -/
def latch (k : ErrKind) (s : State) : State :=
  match k with
  | .deflate d =>
    match s.mode with
    | .rawDeflate => { s with runState := .done, derr := d.code }
    | .zlib => { s with runState := .done, derr := d.code, zerr := deflateErrorCode }
    | .png => { s with runState := .done, derr := d.code, zerr := deflateErrorCode, perr := zlibErrorCode }
  | .zlib z =>
    match s.mode with
    | .rawDeflate => { s with runState := .done, zerr := z.code }
    | .zlib => { s with runState := .done, zerr := z.code }
    | .png => { s with runState := .done, zerr := z.code, perr := zlibErrorCode }
  | .png p => { s with runState := .done, perr := p.code }

/-- `raise K` (R10, R430). -/
def raise (k : ErrKind) (s : State) : Res := .next (latch k s)

/-! ## Starts and ends of streams, blocks and runs -/

/-- `INF.INIT`: the start of a DEFLATE stream; the window has no history, its bytes stay (R185). -/
def infInit (s : State) : State :=
  { s with
    bsr := { acc := 0#32, cnt := 0 }
    win := { s.win with wr := 0#15, fill := 0, total := 0 }
    inf := { s.inf with bfinal := false }
    phase := .blockHdr }

/-- `ZLF.INIT`: the start of a zlib frame (R300). -/
def zlfInit (s : State) : State := { s with adl := adlerInit, phase := .zlibHdr }

/-- A run ends well (R436). -/
def succeed (s : State) : State := { s with runState := .done }

/-- The end of a DEFLATE stream: in mode 0 the run is over, else the trailer comes next (R205, R308). -/
def endStream (s : State) : State :=
  match s.mode with
  | .rawDeflate => succeed s
  | .zlib => { s with phase := .trailer }
  | .png => { s with phase := .trailer }

/-- The end of a block: another block, unless `INF.bfinal` is set (R186). -/
def endBlock (s : State) : State :=
  if s.inf.bfinal then endStream s else { s with phase := .blockHdr }

/-- `FLT.INIT` (R370). -/
def fltInit (f : Flt) : Flt := { f with pend := [], row := 0#32, ferr := false }

/-- Continue after `Skip(n)` on the primary source; its `EOF` is `PrematureEndOfFile` (46_png_chunks.md).
While the bytes have not all arrived the block holds (R465). -/
def skipThen (n : Nat) (s : State) (k : State → State) : Res :=
  match skip n s with
  | .got _ s' => .next (k s')
  | .eof => raise (.png .prematureEndOfFile) s
  | .corrupt => raise (.png .prematureEndOfFile) s
  | .wait => .next s

end Sys2Proof.Machine
end

