-- ==== Sys2Proof/Machine/Flags.lean ====
section
/-! DEFINITION. The one-bit state of the block (10_state.md R37) and the status and control outputs
(R60 to R65) as functions of the state. The hardware has no condition codes. -/

namespace Sys2Proof.Machine

/-- `CM` = 8 (R302). -/
def cmOk (cmf : Byte) : Bool := decide (headerCm cmf = 8)

/-- The header check: `(CMF × 256 + FLG) mod 31 = 0` (R303). -/
def fcheckOk (cmf flg : Byte) : Bool := decide ((cmf.toNat * 256 + flg.toNat) % 31 = 0)

/-- `FLT.k` (R35): bytes of the pending scanline. -/
def State.k (s : State) : Nat := s.flt.pend.length

/-- `INF.nlens` (R28): code lengths already known. -/
def State.nlens (s : State) : Nat := s.inf.lens.length

/-- A filtered scanline is complete and not yet reconstructed: `FLT.k = S + 1` in mode 2 (R371, R372).
Its reconstruction is the very next thing the block does (log entry 8). -/
def State.scanlineDue (s : State) : Bool :=
  decide (s.mode = .png) && decide (s.flt.pend.length = s.ihd.S + 1)

/-- Is the port that carries this transfer ready? The IHDR event has no ready signal (R62 to R64). -/
def OutXfer.accepted (x : OutXfer) (s : State) : Bool :=
  match x with
  | .byte _ => s.obReady
  | .ihdr _ _ _ _ _ _ _ _ _ => true
  | .scan _ _ _ _ _ => s.slReady

/-- Is this the last transfer of a scanline event (`sl_last`, R64)? -/
def OutXfer.endsScanline : OutXfer → Bool
  | .byte _ => false
  | .ihdr _ _ _ _ _ _ _ _ _ => false
  | .scan _ _ _ last _ => last

/-! ## Outputs the host can read (R61 to R65)

R21 says that `MODE` too is read through the status port, and R65, which lists the port's outputs, names none
that shows it. The model has the outputs of R65 and none for `MODE` (DESIGN CHOICE, log entry 21). -/

/-- `in_ready` (R61, R450): the queue of the input port has no bound, so the port is ready while BUSY. -/
def State.inReady (s : State) : Bool := decide (s.runState = .busy)

/-- `busy` (R65). -/
def State.busy (s : State) : Bool := decide (s.runState = .busy)

/-- `done` (R65). -/
def State.done (s : State) : Bool := decide (s.runState = .done)

/-- Did the run end well: DONE with all three error registers 0 (R23)? -/
def State.succeeded (s : State) : Bool :=
  s.done && decide (s.perr = 0#4) && decide (s.zerr = 0#3) && decide (s.derr = 0#3)

/-- `perr`, `zerr`, `derr` of the status port: defined when `done` = 1 (R65). -/
def State.statusErrors (s : State) : Option (BitVec 4 × BitVec 3 × BitVec 3) :=
  if s.done then some (s.perr, s.zerr, s.derr) else none

/-- `pos` of the status port: defined when the run has ended well (R65, decision D5). -/
def State.statusPos (s : State) : Option Nat := if s.succeeded then some s.pos else none

/-- `ferr` of the status port; after an error it keeps its value (R65, R431). "While BUSY only `busy`,
`done`, `row` are defined" (R65) and "`FLT.ferr` is visible on the status port (`ferr`) meanwhile" (R413):
the model follows R413. -/
def State.statusFerr (s : State) : Bool := s.flt.ferr

/-- `row` of the status port (R65), "readable at any time": while a scanline event is in progress the row of
that event (R381). After an error it is unspecified (R431). -/
def State.statusRow (s : State) : Option Word :=
  if s.done && !s.succeeded then none else some s.flt.row

end Sys2Proof.Machine
end

