-- ==== Sys2Proof/Machine/Blocks.lean ====
section
/-! DEFINITION. The DEFLATE block decoder at block level (43_deflate_blocks.md): block headers, the
stored-block header, the dynamic header and the code-length symbols. -/

namespace Sys2Proof.Machine

/-! ## Block headers (R187) -/

/-- The two registers every block header writes (R187). -/
def blockHeader (bfinal : Bool) (btype : BitVec 2) (s : State) : State :=
  { s with inf := { s.inf with bfinal := bfinal, btype := btype } }

/-- BLK.STORED: align; the stored header comes next (R188). -/
def execBlkStored (bfinal : Bool) (s : State) : Res :=
  .next { alignToByte (blockHeader bfinal 0#2 s) with phase := .storedHdr }

/-- BLK.FIXED: build the fixed tables; the body comes next (R192). -/
def execBlkFixed (bfinal : Bool) (s : State) : Res :=
  .next { blockHeader bfinal 1#2 s with
    huf := (s.huf.buildLl fixedLitLengths).buildDt fixedDistLengths
    phase := .body }

/-- BLK.DYN: the dynamic header comes next (R193). -/
def execBlkDyn (bfinal : Bool) (s : State) : Res :=
  .next { blockHeader bfinal 2#2 s with phase := .dynHdr }

/-- BLK.RSVD: `InvalidBlockType`, whatever BFINAL is (R194). -/
def execBlkRsvd (bfinal : Bool) (s : State) : Res :=
  raise (.deflate .invalidBlockType) (blockHeader bfinal 3#2 s)

/-! ## The stored block (R189) -/

/-- STORED.HDR: LEN and NLEN are checked before any raw byte is copied; then the stored copy of LEN bytes
begins (R189, R190). -/
def execStoredHdr (len nlen : BitVec 16) (s : State) : Res :=
  let s' := { s with inf := { s.inf with slen := len, snlen := nlen } }
  if nlen ≠ ~~~len then raise (.deflate .lengthCorrupt) s'
  else .next { s' with inf := { s'.inf with srem := len.toNat }, phase := .storedCopy }

/-- One pass of the stored copy: a byte of the byte source to `Emit`, or the end of the block when none
is left (R190, R186). -/
def storedCopy (s : State) : Res :=
  if s.inf.srem = 0 then .next (endBlock s)
  else
    match currentGet s with
    | .got b s' => .next (emit b { s' with inf := { s'.inf with srem := s'.inf.srem - 1 } })
    | .eof => raise (.deflate .endOfStream) s
    | .corrupt => raise (.deflate .endOfStream) s
    | .wait => .next s

/-! ## The dynamic header (R195 to R197) -/

/-- DYN.HDR: the three counts with their offsets; no range check (R195, decision D11). -/
def execDynHdr (hlit hdist : BitVec 5) (hclen : BitVec 4) (s : State) : Res :=
  .next { s with
    inf := { s.inf with hlit := hlit.toNat + 257, hdist := hdist.toNat + 1, hclen := hclen.toNat + 4 }
    phase := .dynCll }

/-- Place 3-bit lengths at the positions of `CLORD`, the missing ones 0 (R196). -/
def placeCll (lens : List (BitVec 3)) : List (BitVec 3) :=
  (List.range 19).map fun j =>
    match clOrder.findIdx? (fun p => decide (p = j)) with
    | none => 0#3
    | some i => lens.getD i 0#3

/-- DYN.CLL: the code-length-code lengths, then the `CL` table, complete before the first code-length
symbol; the length vector starts empty (R196, R197, R198). -/
def execDynCll (lens : List (BitVec 3)) (s : State) : Res :=
  let cll := placeCll lens
  .next { s with
    inf := { s.inf with cll := cll, lens := [] }
    huf := s.huf.buildCl (cll.map (BitVec.zeroExtend 4))
    phase := .codeLens }

/-! ## Code-length symbols (R198 to R204) -/

/-- `total` = `INF.hlit` + `INF.hdist` (R198). -/
def lensTotal (s : State) : Nat := s.inf.hlit + s.inf.hdist

/-- The test of the code-length loop after lengths were appended: when all are known, both tables are
built from the two parts of the vector and the body begins (R198, R204). -/
def endCodeLen (s : State) : State :=
  if s.inf.lens.length < lensTotal s then s
  else { s with
    huf := (s.huf.buildLl (s.inf.lens.take s.inf.hlit)).buildDt ((s.inf.lens.drop s.inf.hlit).take s.inf.hdist)
    phase := .body }

/-- Append lengths to the vector (R199 to R202). -/
def appendLens (ls : List (BitVec 4)) (s : State) : State :=
  endCodeLen { s with inf := { s.inf with lens := s.inf.lens ++ ls } }

/-- A repeat of one length: an overrun is `InvalidDynamicReference` and appends nothing (R203). -/
def repeatLen (count : Nat) (l : BitVec 4) (s : State) : Res :=
  if s.inf.lens.length + count > lensTotal s then raise (.deflate .invalidDynamicReference) s
  else .next (appendLens (List.replicate count l) s)

/-- CL.LEN: the symbol is the length (R199). -/
def execClLen (len : BitVec 4) (s : State) : Res := .next (appendLens [len] s)

/-- CL.REP: repeat the previous length 3 to 6 times; as the first symbol an error (R200). -/
def execClRep (extra : BitVec 2) (s : State) : Res :=
  match s.inf.lens.getLast? with
  | none => raise (.deflate .invalidDynamicReference) s
  | some p => repeatLen (3 + extra.toNat) p s

/-- CL.ZREP3: 3 to 10 zero lengths (R201). -/
def execClZrep3 (extra : BitVec 3) (s : State) : Res := repeatLen (3 + extra.toNat) 0#4 s

/-- CL.ZREP11: 11 to 138 zero lengths (R202). -/
def execClZrep11 (extra : BitVec 7) (s : State) : Res := repeatLen (11 + extra.toNat) 0#4 s

end Sys2Proof.Machine
end

