-- ==== Sys2Proof/Machine/Filters.lean ====
section
/-! DEFINITION. The scanline filter reconstructor (48_scanline_filters.md). A filtered scanline is the
pending buffer when it holds S + 1 bytes: the filter type and the bytes in(0) to in(S − 1). -/

namespace Sys2Proof.Machine

/-! ## Predictors (R373 to R379) -/

/-- The predictor of None (R374). -/
def predNone (_a _b _c : Byte) : Byte := 0#8

/-- The predictor of Sub (R375). -/
def predSub (a _b _c : Byte) : Byte := a

/-- The predictor of Up (R376). -/
def predUp (_a b _c : Byte) : Byte := b

/-- The predictor of Average: a 9-bit sum, halved and rounded down (R377). -/
def predAvg (a b _c : Byte) : Byte := BitVec.ofNat 8 ((a.toNat + b.toNat) / 2)

/-- The Paeth predictor, in exact signed integers; ties go to a, then b (R379). -/
def paeth (a b c : Byte) : Byte :=
  let p : Int := (a.toNat : Int) + (b.toNat : Int) - (c.toNat : Int)
  let pa := (p - (a.toNat : Int)).natAbs
  let pb := (p - (b.toNat : Int)).natAbs
  let pc := (p - (c.toNat : Int)).natAbs
  if pa ≤ pb ∧ pa ≤ pc then a else if pb ≤ pc then b else c

/-- The neighbour `a(x)`: the reconstructed byte bpp columns to the left, 0 if there is none (R373). -/
def leftOf (bpp : Nat) (cur : List Byte) (x : Nat) : Byte :=
  if bpp ≤ x then cur.getD (x - bpp) 0#8 else 0#8

/-- The neighbour `b(x)`: the prior scanline's byte, 0 on the first scanline (R373). -/
def aboveOf (first : Bool) (prior : List Byte) (x : Nat) : Byte :=
  if first then 0#8 else prior.getD x 0#8

/-- The neighbour `c(x)`: the prior scanline's byte bpp columns to the left (R373). -/
def cornerOf (bpp : Nat) (first : Bool) (prior : List Byte) (x : Nat) : Byte :=
  if bpp ≤ x then aboveOf first prior (x - bpp) else 0#8

/-- The columns in increasing x, each `(in(x) + predictor) mod 256` (R383, R385); `cur` holds the columns
already done. -/
def filterRow (pred : Byte → Byte → Byte → Byte) (bpp : Nat) (first : Bool) (prior : List Byte) :
    List Byte → List Byte → List Byte
  | [], cur => cur
  | i :: ins, cur =>
    filterRow pred bpp first prior ins
      (cur ++ [i + pred (leftOf bpp cur cur.length) (aboveOf first prior cur.length)
        (cornerOf bpp first prior cur.length)])

/-! ## Delivery (R381) -/

/-- The transfers of a non-empty scanline, column 0 first (R64). -/
def scanColumns (row : Word) : Bool → List Byte → List OutXfer
  | _, [] => []
  | first, b :: bs => .scan row (some b) first bs.isEmpty false :: scanColumns row false bs

/-- The transfers of one scanline event: S of them, or one marked empty when S = 0 (R64, R384). -/
def scanXfers (row : Word) (bytes : List Byte) : List OutXfer :=
  if bytes.isEmpty then [.scan row none true true true] else scanColumns row true bytes

/-- Deliver the scanline: its event is offered under the row index before the increment (R381). While its
transfers wait, `FLT.row` and `FLT.prior` stay as they are and `FLT.k` is S + 1 (R371, R64). -/
def deliver (cur : List Byte) (s : State) : State :=
  { s with offer := s.offer ++ scanXfers s.flt.row cur, flt := { s.flt with cur := cur } }

/-- What follows the scanline event, when its last transfer has been accepted: the scanline becomes the prior
one, the row advances, and the push that completed the scanline ends with `FLT.k` = 0 (R381, R371). -/
def advanceScanline (s : State) : State :=
  { s with flt := { s.flt with pend := [], prior := s.flt.cur, row := s.flt.row + 1#32 } }

/-- Is `FLT.row` = 0: the first scanline of the image (R373)? -/
def firstRow (s : State) : Bool := decide (s.flt.row = 0#32)

/-- The bytes a filter reads are there: S bytes after the filter type; the prior scanline if the filter
looks up and the row is not the first; a positive bpp if it looks left in a scanline that has columns
(R35, R83). -/
def buffersOk (looksLeft looksUp : Bool) (s : State) : Bool :=
  decide (s.ihd.S + 1 ≤ s.flt.pend.length) &&
  (!looksLeft || decide (0 < s.ihd.bpp) || decide (s.ihd.S = 0)) &&
  (!looksUp || firstRow s || decide (s.ihd.S ≤ s.flt.prior.length))

/-- The reconstructed columns of the pending scanline (R372 to R378). -/
def rowOf (pred : Byte → Byte → Byte → Byte) (s : State) : List Byte :=
  filterRow pred s.ihd.bpp (firstRow s) s.flt.prior ((s.flt.pend.drop 1).take s.ihd.S) []

/-- Reconstruct a filtered scanline and deliver it; `advanceScanline` follows the delivery (R372, R381). -/
def reconstruct (looksLeft looksUp : Bool) (pred : Byte → Byte → Byte → Byte) (s : State) : Res :=
  if buffersOk looksLeft looksUp s then .next (deliver (rowOf pred s) s) else .fault .scanlineUnwritten

/-! ## One meaning per filter type -/

/-- FLT.NONE (R374). -/
def execFltNone (s : State) : Res := reconstruct false false predNone s

/-- FLT.SUB (R375). -/
def execFltSub (s : State) : Res := reconstruct true false predSub s

/-- FLT.UP (R376). -/
def execFltUp (s : State) : Res := reconstruct false true predUp s

/-- FLT.AVG (R377). -/
def execFltAvg (s : State) : Res := reconstruct true true predAvg s

/-- FLT.PAETH (R378). -/
def execFltPaeth (s : State) : Res := reconstruct true true paeth s

/-- FLT.INV: the error is latched, nothing is delivered and the S data bytes are discarded (R380, R371). -/
def execFltInv (_ftype : Byte) (s : State) : Res :=
  .next { s with flt := { s.flt with pend := [], ferr := true } }

end Sys2Proof.Machine
end

