-- ==== Sys2Proof/Machine/Png.lean ====
section
/-! DEFINITION. The PNG chunk iterator (46_png_chunks.md) and the IHDR parser (47_ihdr.md). -/

namespace Sys2Proof.Machine

/-! ## The signature (R321) -/

/-- The eight bytes of the PNG signature, first byte most significant (R117). -/
def pngSignature : BitVec 64 := 0x89504E470D0A1A0A#64

/-- PNG.SIG (R321). -/
def execPngSig (bytes : BitVec 64) (s : State) : Res :=
  if bytes ≠ pngSignature then raise (.png .badSignature) s
  else .next { s with phase := .firstChunk }

/-! ## Chunks (R322 to R334) -/

/-- The two registers every chunk header writes (R322, R325). -/
def chunkHeader (len ctype : Word) (s : State) : State :=
  { s with chk := { s.chk with clen := len, ctype := ctype } }

/-- The first chunk must be IHDR (R322); any other type there is an error. Else the operation `k` runs. -/
def notFirst (s : State) (k : Res) : Res :=
  if s.phase = .firstChunk then raise (.png .invalidFirstChunk) s else k

/-- CHUNK.IHDR: as the first chunk its length must be 13 and the payload comes next (R322, decision D21);
later it is `MultipleIHDR` (R326). -/
def execChunkIhdr (len : Word) (s : State) : Res :=
  let s' := chunkHeader len typeIhdr s
  if s.phase = .firstChunk then
    if len ≠ 13#32 then raise (.png .invalidFirstChunk) s'
    else .next { s' with phase := .ihdr }
  else raise (.png .multipleIhdr) s'

/-- CHUNK.IDAT: with `CHK.run_done` clear a run and a zlib frame start (R327); with it set the chunk is
skipped with its CRC, which comes next (R328). -/
def execChunkIdat (len : Word) (s : State) : Res :=
  let s' := chunkHeader len typeIdat s
  notFirst s'
    (if s'.chk.runDone then .next { s' with phase := .chunkSkip }
     else .next (zlfInit { s' with chk := { s'.chk with idatRem := len.toNat } }))

/-- CHUNK.IEND: its CRC comes next, whatever the length field says (R332, decision D27). -/
def execChunkIend (len : Word) (s : State) : Res :=
  let s' := chunkHeader len typeIend s
  notFirst s' (.next { s' with phase := .iendCrc })

/-- CHUNK.ANC: clear `CHK.run_done`; the skip of payload and CRC comes next (R333). -/
def execChunkAnc (len ctype : Word) (s : State) : Res :=
  let s' := chunkHeader len ctype s
  notFirst s' (.next { s' with chk := { s'.chk with runDone := false }, phase := .chunkSkip })

/-- CHUNK.CRIT: `UnsupportedCriticalChunkEncountered`; the payload is not read (R334). -/
def execChunkCrit (len ctype : Word) (s : State) : Res :=
  let s' := chunkHeader len ctype s
  notFirst s' (raise (.png .unsupportedCriticalChunk) s')

/-! ## Skips that follow a header (R328, R329, R332, R333)

Each is one pass of its own: it waits until all its bytes have arrived, and its `EOF` is
`PrematureEndOfFile`. -/

/-- The payload and the CRC of a skipped chunk, the sum formed without wrap; then the next chunk
(R328, R333). -/
def skipChunk (s : State) : Res := skipThen (s.chk.clen.toNat + 4) s fun t => { t with phase := .chunk }

/-- The CRC of IEND, and the run has ended well (R332, R436). -/
def skipIendCrc (s : State) : Res := skipThen 4 s succeed

/-- After a frame that ended well: the rest of the current IDAT payload and its CRC are skipped unread,
and `CHK.run_done` is set (R329). -/
def finishRun (s : State) : Res :=
  skipThen (s.chk.idatRem + 4) s fun t =>
    { t with chk := { t.chk with idatRem := 0, runDone := true }, phase := .chunk }

/-! ## The image header (R350 to R361) -/

/-- The accepted pairs of colour type and bit depth (R353, decision D23). -/
def colourDepthOk (colour depth : Byte) : Bool :=
  (decide (colour = 0#8) || decide (colour = 2#8) || decide (colour = 4#8) || decide (colour = 6#8)) &&
    (decide (depth = 8#8) || decide (depth = 16#8))

/-- Samples per pixel of a colour type (R358). The last arm is never reached after R353. -/
def samplesPerPixel (colour : Byte) : Nat :=
  if colour = 0#8 then 1 else if colour = 2#8 then 3 else if colour = 4#8 then 2 else if colour = 6#8 then 4 else 1

/-- Bytes per pixel: samples × (bit depth / 8) (R358). -/
def bytesPerPixel (colour depth : Byte) : Nat := samplesPerPixel colour * (depth.toNat / 8)

/-- The six checks of the image header in their order; the first that fails is the kind (R351 to R357). -/
def ihdrCheck (h : Ihd) : Option PngErr :=
  if h.width.toNat > 0x7FFFFFFF then some .invalidWidth
  else if h.height.toNat > 0x7FFFFFFF then some .invalidHeight
  else if colourDepthOk h.colour h.depth = false then some .invalidColorTypeAndBitDepth
  else if h.comp ≠ 0#8 then some .unsupportedCompressionMethod
  else if h.filt ≠ 0#8 then some .unsupportedFilterMethod
  else if h.ilace ≠ 0#8 then some .unsupportedInterlaceMethod
  else none

/-- The IHDR event: what the IHDR port shows (R63, R361). -/
def ihdrEvent (h : Ihd) : OutXfer :=
  .ihdr h.width h.height h.depth h.colour h.comp h.filt h.ilace h.bpp h.S

/-- Acceptance of an image header: `bpp`, `S`, `valid`, a fresh reconstructor, the IHDR event; its CRC is
skipped next (R358 to R361). -/
def acceptIhdr (s : State) : State :=
  let bpp := bytesPerPixel s.ihd.colour s.ihd.depth
  let h := { s.ihd with bpp := bpp, S := s.ihd.width.toNat * bpp, valid := true }
  { s with ihd := h, flt := fltInit s.flt, offer := s.offer ++ [ihdrEvent h], phase := .ihdrCrc }

/-- IHDR.PAYLOAD (R350 to R361). -/
def execIhdrPayload (width height : Word) (depth colour comp filt ilace : Byte) (s : State) : Res :=
  let s' := { s with ihd := { s.ihd with
    width := width, height := height, depth := depth, colour := colour, comp := comp, filt := filt, ilace := ilace } }
  match ihdrCheck s'.ihd with
  | some k => raise (.png k) s'
  | none =>
    if Config.admitsScanline (width.toNat * bytesPerPixel colour depth) then .next (acceptIhdr s')
    else .refused .scanlineExceedsSMax

/-- The CRC of the IHDR chunk is skipped after the IHDR event; then the chunk loop begins (R361, R320). -/
def skipIhdrCrc (s : State) : Res := skipThen 4 s fun t => { t with phase := .chunk }

end Sys2Proof.Machine
end

