-- ==== Sys2Proof/Machine/Symbols.lean ====
section
/-! DEFINITION. The DEFLATE block decoder at symbol level (44_deflate_symbols.md): literals, end of
block, match lengths, match distances and the match copy. -/

namespace Sys2Proof.Machine

/-! ## Literal, end of block, illegal symbols (R217, R218, R259) -/

/-- LIT: `Emit(INF.sym[7:0])` (R217). -/
def execLit (b : Byte) (s : State) : Res :=
  .next (emit b { s with inf := { s.inf with sym := b.zeroExtend 9 } })

/-- EOB: nothing is emitted; the block is over (R218, R186). -/
def execEob (s : State) : Res :=
  .next (endBlock { s with inf := { s.inf with sym := 256#9 } })

/-- LL.INV: `InvalidSymbol` (R259). -/
def execLlInv (odd : Bool) (s : State) : Res :=
  raise (.deflate .invalidSymbol) { s with inf := { s.inf with sym := 286#9 + BitVec.ofNat 9 odd.toNat } }

/-! ## Match lengths (R219, R230 to R258) -/

/-- The common part of a length symbol: the match length, then the distance element (R219). -/
def lengthSymbol (sym : BitVec 9) (mlen : Nat) (s : State) : Res :=
  .next { s with inf := { s.inf with sym := sym, mlen := mlen }, phase := .dist }

/-- LEN257: `INF.mlen <- 3` (R230). -/
def execLen257 (s : State) : Res := lengthSymbol 257#9 3 s

/-- LEN258: `INF.mlen <- 4` (R231). -/
def execLen258 (s : State) : Res := lengthSymbol 258#9 4 s

/-- LEN259: `INF.mlen <- 5` (R232). -/
def execLen259 (s : State) : Res := lengthSymbol 259#9 5 s

/-- LEN260: `INF.mlen <- 6` (R233). -/
def execLen260 (s : State) : Res := lengthSymbol 260#9 6 s

/-- LEN261: `INF.mlen <- 7` (R234). -/
def execLen261 (s : State) : Res := lengthSymbol 261#9 7 s

/-- LEN262: `INF.mlen <- 8` (R235). -/
def execLen262 (s : State) : Res := lengthSymbol 262#9 8 s

/-- LEN263: `INF.mlen <- 9` (R236). -/
def execLen263 (s : State) : Res := lengthSymbol 263#9 9 s

/-- LEN264: `INF.mlen <- 10` (R237). -/
def execLen264 (s : State) : Res := lengthSymbol 264#9 10 s

/-- LEN265: `INF.mlen <- 11 + e` (R238). -/
def execLen265 (extra : BitVec 1) (s : State) : Res := lengthSymbol 265#9 (11 + extra.toNat) s

/-- LEN266: `INF.mlen <- 13 + e` (R239). -/
def execLen266 (extra : BitVec 1) (s : State) : Res := lengthSymbol 266#9 (13 + extra.toNat) s

/-- LEN267: `INF.mlen <- 15 + e` (R240). -/
def execLen267 (extra : BitVec 1) (s : State) : Res := lengthSymbol 267#9 (15 + extra.toNat) s

/-- LEN268: `INF.mlen <- 17 + e` (R241). -/
def execLen268 (extra : BitVec 1) (s : State) : Res := lengthSymbol 268#9 (17 + extra.toNat) s

/-- LEN269: `INF.mlen <- 19 + e` (R242). -/
def execLen269 (extra : BitVec 2) (s : State) : Res := lengthSymbol 269#9 (19 + extra.toNat) s

/-- LEN270: `INF.mlen <- 23 + e` (R243). -/
def execLen270 (extra : BitVec 2) (s : State) : Res := lengthSymbol 270#9 (23 + extra.toNat) s

/-- LEN271: `INF.mlen <- 27 + e` (R244). -/
def execLen271 (extra : BitVec 2) (s : State) : Res := lengthSymbol 271#9 (27 + extra.toNat) s

/-- LEN272: `INF.mlen <- 31 + e` (R245). -/
def execLen272 (extra : BitVec 2) (s : State) : Res := lengthSymbol 272#9 (31 + extra.toNat) s

/-- LEN273: `INF.mlen <- 35 + e` (R246). -/
def execLen273 (extra : BitVec 3) (s : State) : Res := lengthSymbol 273#9 (35 + extra.toNat) s

/-- LEN274: `INF.mlen <- 43 + e` (R247). -/
def execLen274 (extra : BitVec 3) (s : State) : Res := lengthSymbol 274#9 (43 + extra.toNat) s

/-- LEN275: `INF.mlen <- 51 + e` (R248). -/
def execLen275 (extra : BitVec 3) (s : State) : Res := lengthSymbol 275#9 (51 + extra.toNat) s

/-- LEN276: `INF.mlen <- 59 + e` (R249). -/
def execLen276 (extra : BitVec 3) (s : State) : Res := lengthSymbol 276#9 (59 + extra.toNat) s

/-- LEN277: `INF.mlen <- 67 + e` (R250). -/
def execLen277 (extra : BitVec 4) (s : State) : Res := lengthSymbol 277#9 (67 + extra.toNat) s

/-- LEN278: `INF.mlen <- 83 + e` (R251). -/
def execLen278 (extra : BitVec 4) (s : State) : Res := lengthSymbol 278#9 (83 + extra.toNat) s

/-- LEN279: `INF.mlen <- 99 + e` (R252). -/
def execLen279 (extra : BitVec 4) (s : State) : Res := lengthSymbol 279#9 (99 + extra.toNat) s

/-- LEN280: `INF.mlen <- 115 + e` (R253). -/
def execLen280 (extra : BitVec 4) (s : State) : Res := lengthSymbol 280#9 (115 + extra.toNat) s

/-- LEN281: `INF.mlen <- 131 + e` (R254). -/
def execLen281 (extra : BitVec 5) (s : State) : Res := lengthSymbol 281#9 (131 + extra.toNat) s

/-- LEN282: `INF.mlen <- 163 + e` (R255). -/
def execLen282 (extra : BitVec 5) (s : State) : Res := lengthSymbol 282#9 (163 + extra.toNat) s

/-- LEN283: `INF.mlen <- 195 + e` (R256). -/
def execLen283 (extra : BitVec 5) (s : State) : Res := lengthSymbol 283#9 (195 + extra.toNat) s

/-- LEN284: `INF.mlen <- 227 + e` (R257). -/
def execLen284 (extra : BitVec 5) (s : State) : Res := lengthSymbol 284#9 (227 + extra.toNat) s

/-- LEN285: `INF.mlen <- 258` (R258). -/
def execLen285 (s : State) : Res := lengthSymbol 285#9 258 s

/-! ## Match distances (R220, R221, R260 to R290) -/

/-- The common part of a distance symbol: the distance, the check against `WIN.fill`, and the start of
the copy of `INF.mlen` bytes (R220, R221, R222). -/
def distanceSymbol (dsym : BitVec 5) (mdist : Nat) (s : State) : Res :=
  let s' := { s with inf := { s.inf with dsym := dsym, mdist := mdist } }
  if mdist > s.win.fill then raise (.deflate .corruptDistance) s'
  else .next { s' with inf := { s'.inf with crem := s'.inf.mlen }, phase := .copy }

/-- DIST0: `INF.mdist <- 1` (R260). -/
def execDist0 (s : State) : Res := distanceSymbol 0#5 1 s

/-- DIST1: `INF.mdist <- 2` (R261). -/
def execDist1 (s : State) : Res := distanceSymbol 1#5 2 s

/-- DIST2: `INF.mdist <- 3` (R262). -/
def execDist2 (s : State) : Res := distanceSymbol 2#5 3 s

/-- DIST3: `INF.mdist <- 4` (R263). -/
def execDist3 (s : State) : Res := distanceSymbol 3#5 4 s

/-- DIST4: `INF.mdist <- 5 + e` (R264). -/
def execDist4 (extra : BitVec 1) (s : State) : Res := distanceSymbol 4#5 (5 + extra.toNat) s

/-- DIST5: `INF.mdist <- 7 + e` (R265). -/
def execDist5 (extra : BitVec 1) (s : State) : Res := distanceSymbol 5#5 (7 + extra.toNat) s

/-- DIST6: `INF.mdist <- 9 + e` (R266). -/
def execDist6 (extra : BitVec 2) (s : State) : Res := distanceSymbol 6#5 (9 + extra.toNat) s

/-- DIST7: `INF.mdist <- 13 + e` (R267). -/
def execDist7 (extra : BitVec 2) (s : State) : Res := distanceSymbol 7#5 (13 + extra.toNat) s

/-- DIST8: `INF.mdist <- 17 + e` (R268). -/
def execDist8 (extra : BitVec 3) (s : State) : Res := distanceSymbol 8#5 (17 + extra.toNat) s

/-- DIST9: `INF.mdist <- 25 + e` (R269). -/
def execDist9 (extra : BitVec 3) (s : State) : Res := distanceSymbol 9#5 (25 + extra.toNat) s

/-- DIST10: `INF.mdist <- 33 + e` (R270). -/
def execDist10 (extra : BitVec 4) (s : State) : Res := distanceSymbol 10#5 (33 + extra.toNat) s

/-- DIST11: `INF.mdist <- 49 + e` (R271). -/
def execDist11 (extra : BitVec 4) (s : State) : Res := distanceSymbol 11#5 (49 + extra.toNat) s

/-- DIST12: `INF.mdist <- 65 + e` (R272). -/
def execDist12 (extra : BitVec 5) (s : State) : Res := distanceSymbol 12#5 (65 + extra.toNat) s

/-- DIST13: `INF.mdist <- 97 + e` (R273). -/
def execDist13 (extra : BitVec 5) (s : State) : Res := distanceSymbol 13#5 (97 + extra.toNat) s

/-- DIST14: `INF.mdist <- 129 + e` (R274). -/
def execDist14 (extra : BitVec 6) (s : State) : Res := distanceSymbol 14#5 (129 + extra.toNat) s

/-- DIST15: `INF.mdist <- 193 + e` (R275). -/
def execDist15 (extra : BitVec 6) (s : State) : Res := distanceSymbol 15#5 (193 + extra.toNat) s

/-- DIST16: `INF.mdist <- 257 + e` (R276). -/
def execDist16 (extra : BitVec 7) (s : State) : Res := distanceSymbol 16#5 (257 + extra.toNat) s

/-- DIST17: `INF.mdist <- 385 + e` (R277). -/
def execDist17 (extra : BitVec 7) (s : State) : Res := distanceSymbol 17#5 (385 + extra.toNat) s

/-- DIST18: `INF.mdist <- 513 + e` (R278). -/
def execDist18 (extra : BitVec 8) (s : State) : Res := distanceSymbol 18#5 (513 + extra.toNat) s

/-- DIST19: `INF.mdist <- 769 + e` (R279). -/
def execDist19 (extra : BitVec 8) (s : State) : Res := distanceSymbol 19#5 (769 + extra.toNat) s

/-- DIST20: `INF.mdist <- 1025 + e` (R280). -/
def execDist20 (extra : BitVec 9) (s : State) : Res := distanceSymbol 20#5 (1025 + extra.toNat) s

/-- DIST21: `INF.mdist <- 1537 + e` (R281). -/
def execDist21 (extra : BitVec 9) (s : State) : Res := distanceSymbol 21#5 (1537 + extra.toNat) s

/-- DIST22: `INF.mdist <- 2049 + e` (R282). -/
def execDist22 (extra : BitVec 10) (s : State) : Res := distanceSymbol 22#5 (2049 + extra.toNat) s

/-- DIST23: `INF.mdist <- 3073 + e` (R283). -/
def execDist23 (extra : BitVec 10) (s : State) : Res := distanceSymbol 23#5 (3073 + extra.toNat) s

/-- DIST24: `INF.mdist <- 4097 + e` (R284). -/
def execDist24 (extra : BitVec 11) (s : State) : Res := distanceSymbol 24#5 (4097 + extra.toNat) s

/-- DIST25: `INF.mdist <- 6145 + e` (R285). -/
def execDist25 (extra : BitVec 11) (s : State) : Res := distanceSymbol 25#5 (6145 + extra.toNat) s

/-- DIST26: `INF.mdist <- 8193 + e` (R286). -/
def execDist26 (extra : BitVec 12) (s : State) : Res := distanceSymbol 26#5 (8193 + extra.toNat) s

/-- DIST27: `INF.mdist <- 12289 + e` (R287). -/
def execDist27 (extra : BitVec 12) (s : State) : Res := distanceSymbol 27#5 (12289 + extra.toNat) s

/-- DIST28: `INF.mdist <- 16385 + e` (R288). -/
def execDist28 (extra : BitVec 13) (s : State) : Res := distanceSymbol 28#5 (16385 + extra.toNat) s

/-- DIST29: `INF.mdist <- 24577 + e` (R289). -/
def execDist29 (extra : BitVec 13) (s : State) : Res := distanceSymbol 29#5 (24577 + extra.toNat) s

/-- DIST.INV: `InvalidSymbol`, before the distance check (R290, decision D9). -/
def execDistInv (odd : Bool) (s : State) : Res :=
  raise (.deflate .invalidSymbol) { s with inf := { s.inf with dsym := 30#5 + BitVec.ofNat 5 odd.toNat } }

/-! ## The match copy (R222) -/

/-- One pass of `COPY`: read the byte `INF.mdist` back, `Emit` it; when none is left the body goes on.
Each read comes after the previous write (R222, R223, R462). -/
def copyByte (s : State) : Res :=
  if s.inf.crem = 0 then .next { s with phase := .body }
  else
    match Memory.read s.win.mem (s.win.addrBack s.inf.mdist) with
    | none => .fault .windowUnwritten
    | some b => .next (emit b { s with inf := { s.inf with crem := s.inf.crem - 1 } })

end Sys2Proof.Machine
end

