-- ==== Sys2Proof/Machine/Zlib.lean ====
section
/-! DEFINITION. The zlib framer (45_zlib_framer.md). -/

namespace Sys2Proof.Machine

/-- A zlib header: both bytes are known, then CM, then FCHECK, then FDICT decides between the DICTID and
the DEFLATE stream (R301 to R306). CINFO and FLEVEL are not examined (R304). -/
def zlibHeader (cmf flg : Byte) (s : State) : Res :=
  let s' := { s with zlf := { s.zlf with cmf := cmf, flg := flg } }
  if cmOk cmf = false then raise (.zlib .unsupportedCompressionMethod) s'
  else if fcheckOk cmf flg = false then raise (.zlib .headerChecksumError) s'
  else if headerFdict flg then .next { s' with phase := .dictid }
  else .next (infInit s')

/-- ZLIB.HDR (R301, R302, R303). -/
def execZlibHdr (cmf flg : Byte) (s : State) : Res := zlibHeader cmf flg s

/-- ZLIB.HDR.FDICT (R305). -/
def execZlibHdrFdict (cmf flg : Byte) (s : State) : Res := zlibHeader cmf flg s

/-- ZLIB.HDR.BADCM (R302). -/
def execZlibHdrBadcm (cmf flg : Byte) (s : State) : Res := zlibHeader cmf flg s

/-- ZLIB.DICTID: the four bytes are neither stored nor interpreted; the DEFLATE stream begins (R305, R306). -/
def execZlibDictid (_id : Word) (s : State) : Res := .next (infInit s)

/-- The frame has ended well: in mode 1 so has the run; in mode 2 the filter latch is examined and, if it
is clear, the rest of the chunk is skipped next (R310, R329). -/
def endFrame (s : State) : Res :=
  match s.mode with
  | .rawDeflate => .next (succeed s)
  | .zlib => .next (succeed s)
  | .png =>
    if s.flt.ferr then raise (.png .unsupportedFilterType) s
    else .next { s with phase := .runEnd }

/-- ZLIB.TRAILER: the stored value against the running Adler-32 (R308, R309). -/
def execZlibTrailer (adler : Word) (s : State) : Res :=
  let s' := { s with zlf := { s.zlf with trailer := adler } }
  if adler ≠ adlerValue s.adl then raise (.zlib .checksumError) s'
  else endFrame s'

end Sys2Proof.Machine
end

