-- ==== Sys2Proof/Machine/Dispatch.lean ====
section
/-! DEFINITION. Which meaning each stream element has: one arm per row of spec/opcode_table.json. -/

namespace Sys2Proof.Machine

def exec (i : Instr) (s : State) : Host.Outcome State Fault Refusal :=
  match i with
  | .blkStored bfinal => Sys2Proof.Machine.execBlkStored bfinal s
  | .blkFixed bfinal => Sys2Proof.Machine.execBlkFixed bfinal s
  | .blkDyn bfinal => Sys2Proof.Machine.execBlkDyn bfinal s
  | .blkRsvd bfinal => Sys2Proof.Machine.execBlkRsvd bfinal s
  | .storedHdr len nlen => Sys2Proof.Machine.execStoredHdr len nlen s
  | .dynHdr hlit hdist hclen => Sys2Proof.Machine.execDynHdr hlit hdist hclen s
  | .dynCll lens => Sys2Proof.Machine.execDynCll lens s
  | .clLen len => Sys2Proof.Machine.execClLen len s
  | .clRep extra => Sys2Proof.Machine.execClRep extra s
  | .clZrep3 extra => Sys2Proof.Machine.execClZrep3 extra s
  | .clZrep11 extra => Sys2Proof.Machine.execClZrep11 extra s
  | .lit b => Sys2Proof.Machine.execLit b s
  | .eob => Sys2Proof.Machine.execEob s
  | .len257 => Sys2Proof.Machine.execLen257 s
  | .len258 => Sys2Proof.Machine.execLen258 s
  | .len259 => Sys2Proof.Machine.execLen259 s
  | .len260 => Sys2Proof.Machine.execLen260 s
  | .len261 => Sys2Proof.Machine.execLen261 s
  | .len262 => Sys2Proof.Machine.execLen262 s
  | .len263 => Sys2Proof.Machine.execLen263 s
  | .len264 => Sys2Proof.Machine.execLen264 s
  | .len265 extra => Sys2Proof.Machine.execLen265 extra s
  | .len266 extra => Sys2Proof.Machine.execLen266 extra s
  | .len267 extra => Sys2Proof.Machine.execLen267 extra s
  | .len268 extra => Sys2Proof.Machine.execLen268 extra s
  | .len269 extra => Sys2Proof.Machine.execLen269 extra s
  | .len270 extra => Sys2Proof.Machine.execLen270 extra s
  | .len271 extra => Sys2Proof.Machine.execLen271 extra s
  | .len272 extra => Sys2Proof.Machine.execLen272 extra s
  | .len273 extra => Sys2Proof.Machine.execLen273 extra s
  | .len274 extra => Sys2Proof.Machine.execLen274 extra s
  | .len275 extra => Sys2Proof.Machine.execLen275 extra s
  | .len276 extra => Sys2Proof.Machine.execLen276 extra s
  | .len277 extra => Sys2Proof.Machine.execLen277 extra s
  | .len278 extra => Sys2Proof.Machine.execLen278 extra s
  | .len279 extra => Sys2Proof.Machine.execLen279 extra s
  | .len280 extra => Sys2Proof.Machine.execLen280 extra s
  | .len281 extra => Sys2Proof.Machine.execLen281 extra s
  | .len282 extra => Sys2Proof.Machine.execLen282 extra s
  | .len283 extra => Sys2Proof.Machine.execLen283 extra s
  | .len284 extra => Sys2Proof.Machine.execLen284 extra s
  | .len285 => Sys2Proof.Machine.execLen285 s
  | .llInv odd => Sys2Proof.Machine.execLlInv odd s
  | .dist0 => Sys2Proof.Machine.execDist0 s
  | .dist1 => Sys2Proof.Machine.execDist1 s
  | .dist2 => Sys2Proof.Machine.execDist2 s
  | .dist3 => Sys2Proof.Machine.execDist3 s
  | .dist4 extra => Sys2Proof.Machine.execDist4 extra s
  | .dist5 extra => Sys2Proof.Machine.execDist5 extra s
  | .dist6 extra => Sys2Proof.Machine.execDist6 extra s
  | .dist7 extra => Sys2Proof.Machine.execDist7 extra s
  | .dist8 extra => Sys2Proof.Machine.execDist8 extra s
  | .dist9 extra => Sys2Proof.Machine.execDist9 extra s
  | .dist10 extra => Sys2Proof.Machine.execDist10 extra s
  | .dist11 extra => Sys2Proof.Machine.execDist11 extra s
  | .dist12 extra => Sys2Proof.Machine.execDist12 extra s
  | .dist13 extra => Sys2Proof.Machine.execDist13 extra s
  | .dist14 extra => Sys2Proof.Machine.execDist14 extra s
  | .dist15 extra => Sys2Proof.Machine.execDist15 extra s
  | .dist16 extra => Sys2Proof.Machine.execDist16 extra s
  | .dist17 extra => Sys2Proof.Machine.execDist17 extra s
  | .dist18 extra => Sys2Proof.Machine.execDist18 extra s
  | .dist19 extra => Sys2Proof.Machine.execDist19 extra s
  | .dist20 extra => Sys2Proof.Machine.execDist20 extra s
  | .dist21 extra => Sys2Proof.Machine.execDist21 extra s
  | .dist22 extra => Sys2Proof.Machine.execDist22 extra s
  | .dist23 extra => Sys2Proof.Machine.execDist23 extra s
  | .dist24 extra => Sys2Proof.Machine.execDist24 extra s
  | .dist25 extra => Sys2Proof.Machine.execDist25 extra s
  | .dist26 extra => Sys2Proof.Machine.execDist26 extra s
  | .dist27 extra => Sys2Proof.Machine.execDist27 extra s
  | .dist28 extra => Sys2Proof.Machine.execDist28 extra s
  | .dist29 extra => Sys2Proof.Machine.execDist29 extra s
  | .distInv odd => Sys2Proof.Machine.execDistInv odd s
  | .zlibHdr cmf flg => Sys2Proof.Machine.execZlibHdr cmf flg s
  | .zlibHdrFdict cmf flg => Sys2Proof.Machine.execZlibHdrFdict cmf flg s
  | .zlibHdrBadcm cmf flg => Sys2Proof.Machine.execZlibHdrBadcm cmf flg s
  | .zlibDictid id => Sys2Proof.Machine.execZlibDictid id s
  | .zlibTrailer adler => Sys2Proof.Machine.execZlibTrailer adler s
  | .pngSig bytes => Sys2Proof.Machine.execPngSig bytes s
  | .chunkIhdr len => Sys2Proof.Machine.execChunkIhdr len s
  | .chunkIdat len => Sys2Proof.Machine.execChunkIdat len s
  | .chunkIend len => Sys2Proof.Machine.execChunkIend len s
  | .chunkAnc len ctype => Sys2Proof.Machine.execChunkAnc len ctype s
  | .chunkCrit len ctype => Sys2Proof.Machine.execChunkCrit len ctype s
  | .ihdrPayload width height depth colour comp filt ilace => Sys2Proof.Machine.execIhdrPayload width height depth colour comp filt ilace s
  | .fltNone => Sys2Proof.Machine.execFltNone s
  | .fltSub => Sys2Proof.Machine.execFltSub s
  | .fltUp => Sys2Proof.Machine.execFltUp s
  | .fltAvg => Sys2Proof.Machine.execFltAvg s
  | .fltPaeth => Sys2Proof.Machine.execFltPaeth s
  | .fltInv ftype => Sys2Proof.Machine.execFltInv ftype s

end Sys2Proof.Machine
end

