-- ==== Sys2Proof/Machine/Fetch.lean ====
section
/-! DEFINITION. Fetching the next element: which format it has, from which byte source it is read, and
which error kind an early end of input is there (70_reset_and_hazards.md R452, 60_exceptions.md R410). -/

namespace Sys2Proof.Machine

/-- The format of the element a phase expects; `none` in the phases where an operation that no element
encodes is in progress (R100, R122). -/
def Phase.fmt : Phase → Option Fmt
  | .blockHdr => some .bh
  | .storedHdr => some .sh
  | .storedCopy => none
  | .dynHdr => some .dh
  | .dynCll => some .cll
  | .codeLens => some .cls
  | .body => some .lls
  | .dist => some .ds
  | .copy => none
  | .zlibHdr => some .zh
  | .dictid => some .zd
  | .trailer => some .zt
  | .sig => some .sig
  | .firstChunk => some .ch
  | .ihdr => some .ih
  | .ihdrCrc => none
  | .chunk => some .ch
  | .chunkSkip => none
  | .iendCrc => none
  | .runEnd => none

/-- The byte source of a format: the chunk iterator and the IHDR parser read the primary source, all
else the current one (R11). The filtered scanlines are not read from the input. -/
def readerOf : Fmt → Reader State
  | .sig => primaryReader
  | .ch => primaryReader
  | .ih => primaryReader
  | .bh | .sh | .dh | .cll | .cls | .lls | .ds | .zh | .zd | .zt | .fs => streamReader

/-- The kind an `EOF` raises, by the layer whose read failed (R410, decision D15). -/
def eofKind : Fmt → ErrKind
  | .bh | .sh | .dh | .cll | .cls | .lls | .ds => .deflate .endOfStream
  | .zh | .zd | .zt => .zlib .prematureEndOfStream
  | .sig | .ch | .ih | .fs => .png .prematureEndOfFile

/-- Read the next element of format `f` in the state's own context. -/
def fetch (f : Fmt) (s : State) : Rd State Instr := decode (readerOf f) s.ctx f s

/-- The filtered scanline of a full pending buffer: its row is its filter type byte (R372). -/
def fetchScanline (s : State) : Instr := filterInstr (s.flt.pend.getD 0 0#8)

end Sys2Proof.Machine
end

