-- ==== Sys2Proof/Machine/Sequencer.lean ====
section
/-! DEFINITION. What the block and its host do next: the host's actions (10_state.md R60 to R65,
70_reset_and_hazards.md), the drain of the output ports, and one element or one pass of an operation in
progress. Holds are steps that change nothing (R470). -/

namespace Sys2Proof.Machine

/-! ## The host's actions -/

/-- What survives reset and start: the ports' surroundings, which are no state of the block. -/
def withEnvironmentOf (s t : State) : State :=
  { t with obReady := s.obReady, slReady := s.slReady, host := s.host, log := s.log }

/-- Reset: every register takes its reset value; a run in progress is discarded, transfers already made
stay made (R450). -/
def hostReset (s : State) : State := withEnvironmentOf s State.reset

/-- The mode a start names; 3 is reserved (R21, U12). -/
def modeOf (m : BitVec 2) : Option Mode :=
  if m = 0#2 then some .rawDeflate
  else if m = 1#2 then some .zlib
  else if m = 2#2 then some .png
  else none

/-- The first element of a run (R452). -/
def firstPhase : Mode → Phase
  | .rawDeflate => .blockHdr
  | .zlib => .zlibHdr
  | .png => .sig

/-- The state in which a run begins: reset values but for `MODE` and `STATE`, the input queue empty (R451). -/
def startState (m : Mode) (s : State) : State :=
  { hostReset s with mode := m, runState := .busy, phase := firstPhase m }

/-- Start: accepted only when `STATE` is not BUSY; the model has no move for a start while BUSY or of the
reserved mode (R451, R455, U1, U12). -/
def hostStart (m : BitVec 2) (s : State) : Res :=
  if s.runState = .busy then .fault .startWhileBusy
  else
    match modeOf m with
    | none => .fault .startReservedMode
    | some mode => .next (startState mode s)

/-- A byte is transferred on the input port: only while the port is ready and before the end (R61, R455). -/
def hostXfer (b : Byte) (s : State) : Res :=
  if s.inReady = false then .fault .transferNotReady
  else if s.inEnd then .fault .inputAfterEnd
  else .next { s with fifo := s.fifo ++ [b] }

/-! ## The block -/

/-- The transfer at the head of the output has been accepted; the last one of a scanline event completes the
delivery, and the advance of R381 follows. -/
def accept (x : OutXfer) (rest : List OutXfer) (s : State) : State :=
  let t := { s with offer := rest, log := s.log ++ [x] }
  if x.endsScanline then advanceScanline t else t

/-- The offered transfer at the head of the output: accepted if its port is ready, else offered on (R464). -/
def drain (x : OutXfer) (rest : List OutXfer) (s : State) : State :=
  if x.accepted s then accept x rest s else s

/-- One element: read it and perform it; an early end of input or a corrupt symbol is raised, and while
bytes are missing the block holds (R10, R410, R465). -/
def runElement (f : Fmt) (s : State) : Res :=
  match fetch f s with
  | .got i s' => exec i s'
  | .eof => raise (eofKind f) s
  | .corrupt => raise (.deflate .corruptSymbol) s
  | .wait => .next s

/-- One pass of an operation that no element encodes (R122). -/
def runOperation (s : State) : Res :=
  match s.phase with
  | .storedCopy => storedCopy s
  | .copy => copyByte s
  | .ihdrCrc => skipIhdrCrc s
  | .runEnd => finishRun s
  | .chunkSkip => skipChunk s
  | .iendCrc => skipIendCrc s
  | .blockHdr | .storedHdr | .dynHdr | .dynCll | .codeLens | .body | .dist | .zlibHdr | .dictid
  | .trailer | .sig | .firstChunk | .ihdr | .chunk => .next s

/-- The next operation of a BUSY block whose output is drained: a complete filtered scanline first, then
the element or operation of the phase. -/
def runNext (s : State) : Res :=
  if s.scanlineDue then exec (fetchScanline s) s
  else
    match s.phase.fmt with
    | some f => runElement f s
    | none => runOperation s

/-- One step of the block on its own. IDLE and DONE change nothing (R21, R431); while a transfer is
offered no further operation is completed (R464). -/
def blockStep (s : State) : Res :=
  match s.runState with
  | .idle => .next s
  | .done => .next s
  | .busy =>
    match s.offer with
    | x :: rest => .next (drain x rest s)
    | [] => runNext s

/-- One action of the host. -/
def hostStep (e : HostEvent) (s : State) : Res :=
  match e with
  | .rst => .next (hostReset s)
  | .start m => hostStart m s
  | .xfer b => hostXfer b s
  | .inEnd => .next { s with inEnd := true }
  | .obReady r => .next { s with obReady := r }
  | .slReady r => .next { s with slReady := r }
  | .pass => blockStep s

/-- The machine's next step: the host's next action, or the block's own step when the host has none. -/
def cycle (s : State) : Res :=
  match s.host with
  | e :: rest => hostStep e { s with host := rest }
  | [] => blockStep s

/-! ## Placing one element of the opcode table -/

/-- The phase in which an element of a format is expected. -/
def phaseOf : Fmt → Phase
  | .bh => .blockHdr
  | .sh => .storedHdr
  | .dh => .dynHdr
  | .cll => .dynCll
  | .cls => .codeLens
  | .lls => .body
  | .ds => .dist
  | .zh => .zlibHdr
  | .zd => .dictid
  | .zt => .trailer
  | .sig => .sig
  | .ch => .chunk
  | .ih => .ihdr
  | .fs => .trailer

/-- A mode in which elements of a format occur. -/
def modeFor : Fmt → Mode
  | .bh | .sh | .dh | .cll | .cls | .lls | .ds => .rawDeflate
  | .zh | .zd | .zt => .zlib
  | .sig | .ch | .ih | .fs => .png

/-- The tables an element of a format is decoded with: those of `tableCtx` for the three symbol formats. -/
def placeTables (f : Fmt) (h : Huf) : Huf :=
  match f with
  | .cls | .lls | .ds => { h with cl := tableCtx.cl, ll := tableCtx.ll, dt := tableCtx.dt }
  | .bh | .sh | .dh | .cll | .zh | .zd | .zt | .sig | .ch | .ih | .fs => h

/-- Make the block BUSY and about to read an element of format `f` whose bytes are given: the mode, the
phase, the input, an empty accumulator and the tables; nothing offered, no scanline due and no host action
before it. For a filtered scanline the first byte goes to the pending buffer with S zero bytes. -/
def placeElement (f : Fmt) (bytes : List Byte) (s : State) : State :=
  let t := { s with
    mode := modeFor f, runState := .busy, phase := phaseOf f, offer := [], host := []
    bsr := { acc := 0#32, cnt := 0 }, huf := placeTables f s.huf }
  if f = .fs then { t with flt := { t.flt with pend := (bytes.getD 0 0#8) :: List.replicate t.ihd.S 0#8 } }
  else { t with fifo := bytes, flt := { t.flt with pend := [] } }

end Sys2Proof.Machine
end

