-- ==== Sys2Proof/Machine/Step.lean ====
section
/-! DEFINITION. One step of the machine, and the state in which the next step runs a given row of the
opcode table. -/

namespace Sys2Proof.Machine

/-- One step: a host action, one transfer of an output port, one element of the stream, or one pass of an
operation in progress (Machine/Sequencer.lean). -/
def step (s : State) : Host.Outcome State Fault Refusal := cycle s

/-- `s` with the element of an opcode-table number as the next thing the block reads (log entry 4). -/
def State.withFetchWord (s : State) (nbits w : Nat) : State :=
  match tableFmt nbits w with
  | none => s
  | some f => placeElement f (tableBytes nbits w) s

end Sys2Proof.Machine
end

