-- ==== Sys2Proof/Safety.lean ====
section
/-! DEFINITION. What holds of the block between two steps: the invariants of the spec's registers and
memories, in the terms the statements use. -/

namespace Sys2Proof.Machine

/-! ## Reading parts of the state -/

/-- The byte produced `dist` bytes ago, if the window holds one (R80). -/
def State.windowBack (s : State) (dist : Nat) : Option Byte := Memory.read s.win.mem (s.win.addrBack dist)

/-- The valid bits of the accumulator, the next stream bit first (R24, R72). -/
def State.accBits (s : State) : List Bool := bitsOfNat s.bsr.cnt s.bsr.acc.toNat

/-- The unread bits of the bit reader when its byte source is the primary one: the accumulator's valid
bits, then the bytes not yet consumed (R24, R72). -/
def State.streamBits (s : State) : List Bool := s.accBits ++ bitsOfBytes s.fifo

/-- The three error registers. -/
def State.errors (s : State) : BitVec 4 × BitVec 3 × BitVec 3 := (s.perr, s.zerr, s.derr)

/-- The phases of mode 2 before an image header has been accepted (R320). -/
def Phase.beforeHeader : Phase → Bool
  | .sig | .firstChunk | .ihdr => true
  | .blockHdr | .storedHdr | .storedCopy | .dynHdr | .dynCll | .codeLens | .body | .dist | .copy
  | .zlibHdr | .dictid | .trailer | .ihdrCrc | .chunk | .runEnd | .chunkSkip | .iendCrc => false

/-- The lowest mode in which a phase occurs: 0 for the DEFLATE decoder's, 1 for the framer's, 2 for the
chunk iterator's and the IHDR parser's (R452). -/
def Phase.layer : Phase → Nat
  | .blockHdr | .storedHdr | .storedCopy | .dynHdr | .dynCll | .codeLens | .body | .dist | .copy => 0
  | .zlibHdr | .dictid | .trailer => 1
  | .sig | .firstChunk | .ihdr | .ihdrCrc | .chunk | .runEnd | .chunkSkip | .iendCrc => 2

/-- The number of a mode (R21). -/
def Mode.number : Mode → Nat
  | .rawDeflate => 0
  | .zlib => 1
  | .png => 2

/-- The phases of a Huffman block's body (R215). -/
def Phase.inBody : Phase → Bool
  | .body | .dist | .copy => true
  | .blockHdr | .storedHdr | .storedCopy | .dynHdr | .dynCll | .codeLens | .zlibHdr | .dictid | .trailer
  | .sig | .firstChunk | .ihdr | .ihdrCrc | .chunk | .runEnd | .chunkSkip | .iendCrc => false

/-! ## Invariants -/

/-- The window memory has its canonical form, and no address outside 0 to 32767 (R30, R79). -/
def WindowCanonical (s : State) : Prop :=
  Memory.wf s.win.mem = true ∧ ∀ a, Config.winSize ≤ a → Memory.read s.win.mem a = none

/-- The accumulator holds at most 7 bits and nothing above them (R25). -/
def AccumulatorBound (s : State) : Prop := s.bsr.cnt ≤ 7 ∧ s.bsr.acc.toNat < 2 ^ s.bsr.cnt

/-- Both sums are below the modulus (R31, R141). -/
def AdlerReduced (s : State) : Prop :=
  s.adl.s1.toNat < Config.adlerMod ∧ s.adl.s2.toNat < Config.adlerMod

/-- `WIN.fill` = min(`WIN.total`, 32768) and `WIN.wr` = `WIN.total` mod 32768 (R30, R79). -/
def WindowCounters (s : State) : Prop :=
  s.win.fill = min s.win.total Config.winSize ∧ s.win.wr.toNat = s.win.total % Config.winSize

/-- Every location a match may read was written in the current stream (R82). -/
def WindowValid (s : State) : Prop :=
  ∀ dist, 1 ≤ dist → dist ≤ s.win.fill → (s.windowBack dist).isSome = true

/-- A match copy in progress has a legal distance (R221). -/
def CopyLegal (s : State) : Prop := s.phase = .copy → 1 ≤ s.inf.mdist ∧ s.inf.mdist ≤ s.win.fill

/-- The counters that the model holds as naturals fit the widths of 10_state.md (R28, R29, R33 to R35). -/
structure CountersFit (s : State) : Prop where
  srem : s.inf.srem < 2 ^ 16
  hlit : s.inf.hlit ≤ 288
  hdist : s.inf.hdist ≤ 32
  hclen : s.inf.hclen ≤ 19
  cll : s.inf.cll.length = 19
  lens : s.inf.lens.length ≤ 320
  mlen : s.inf.mlen ≤ 258
  mdist : s.inf.mdist ≤ 32768
  crem : s.inf.crem ≤ 258
  idatRem : s.chk.idatRem < 2 ^ 32
  bpp : s.ihd.bpp ≤ 8
  scanline : s.ihd.S < 2 ^ 35

/-- While the code lengths are read the vector is not yet complete, and the counts are in their ranges
(R28, R195, R198). -/
def DynamicHeader (s : State) : Prop :=
  (s.phase = .dynCll ∨ s.phase = .codeLens →
    4 ≤ s.inf.hclen ∧ 257 ≤ s.inf.hlit ∧ 1 ≤ s.inf.hdist) ∧
  (s.phase = .codeLens → s.inf.lens.length < lensTotal s)

/-- In the body of a Huffman block `LL` and `DT` are built tables (R90, R463). -/
def TablesBuilt (s : State) : Prop :=
  s.phase.inBody = true → ∃ lits dists, s.huf.ll = hufTable lits ∧ s.huf.dt = hufTable dists

/-- A phase occurs only in the modes that reach it (R452). -/
def PhaseOfMode (s : State) : Prop := s.phase.layer ≤ s.mode.number

/-- The register triples of a DONE block (R412). -/
def legalErrors (m : Mode) (perr : BitVec 4) (zerr derr : BitVec 3) : Prop :=
  (perr = 0#4 ∧ zerr = 0#3 ∧ derr = 0#3) ∨
  match m with
  | .rawDeflate => perr = 0#4 ∧ zerr = 0#3 ∧ derr ≠ 0#3
  | .zlib => perr = 0#4 ∧
      ((zerr ≠ 0#3 ∧ zerr.toNat ≤ 5 ∧ zerr ≠ 4#3 ∧ derr = 0#3) ∨ (zerr = 4#3 ∧ derr ≠ 0#3))
  | .png =>
      (perr ≠ 0#4 ∧ perr.toNat ≤ 13 ∧ perr ≠ 12#4 ∧ zerr = 0#3 ∧ derr = 0#3) ∨
      (perr = 12#4 ∧
        ((zerr ≠ 0#3 ∧ zerr.toNat ≤ 5 ∧ zerr ≠ 4#3 ∧ derr = 0#3) ∨ (zerr = 4#3 ∧ derr ≠ 0#3)))

/-- Before the end of a run no error is held; at DONE the three registers are one of the triples of R412
(R23, R412). -/
def ErrorsLegal (s : State) : Prop :=
  (s.runState ≠ .done → s.errors = (0#4, 0#3, 0#3)) ∧ legalErrors s.mode s.perr s.zerr s.derr

/-- Only a BUSY block offers an output transfer: DONE comes after the last one was accepted (R66, R436). -/
def OffersOnlyBusy (s : State) : Prop := s.runState ≠ .busy → s.offer = []

/-- A transfer of the port that the mode uses: the byte-output port in modes 0 and 1, the IHDR and scanline
ports in mode 2 (R62 to R64). -/
def OutXfer.ofMode (m : Mode) : OutXfer → Prop
  | .byte _ => m ≠ .png
  | .ihdr _ _ _ _ _ _ _ _ _ => m = .png
  | .scan _ _ _ _ _ => m = .png

/-- What is offered is offered on the mode's ports (R62). -/
def PortOfMode (s : State) : Prop := ∀ x ∈ s.offer, x.ofMode s.mode

/-- The image header registers (R34, R358, R359): legal values once accepted, `bpp` and `S` 0 before; in
mode 2 they are accepted exactly in the phases after the IHDR payload. -/
structure HeaderLegal (s : State) : Prop where
  early : s.phase.beforeHeader = true → s.ihd.valid = false
  late : s.mode = .png → s.phase.beforeHeader = false → s.ihd.valid = true
  absent : s.ihd.valid = false → s.ihd.bpp = 0 ∧ s.ihd.S = 0
  checked : s.ihd.valid = true → ihdrCheck s.ihd = none
  derived : s.ihd.valid = true →
    s.ihd.bpp = bytesPerPixel s.ihd.colour s.ihd.depth ∧ s.ihd.S = s.ihd.width.toNat * s.ihd.bpp

/-- The scanline buffers (R35, R371): the pending buffer never passes S + 1 bytes and is used in mode 2
only; after the first scanline the prior one is there. A transfer of a scanline event is offered under the
row that `FLT.row` still has, the scanline being the current one, and only the last offered transfer can end
the event (R381, R64). Before a header is accepted nothing is pending; the error is latched only in mode 2 after
one, and from then on nothing is pending and nothing offered (R382). -/
structure ScanlineBuffers (s : State) : Prop where
  pending : s.flt.pend.length ≤ s.ihd.S + 1
  unused : s.mode ≠ .png → s.flt.pend = []
  prior : s.flt.row ≠ 0#32 → s.flt.prior.length = s.ihd.S
  offered : ∀ row data first last empty, .scan row data first last empty ∈ s.offer →
    row = s.flt.row ∧ s.flt.cur.length = s.ihd.S
  lastEnds : ∀ x ∈ s.offer.dropLast, x.endsScanline = false
  early : s.ihd.valid = false → s.flt.pend = []
  latched : s.flt.ferr = true → s.mode = .png ∧ s.ihd.valid = true ∧ s.flt.pend = [] ∧ s.offer = []

/-- Everything above together: what holds of the block between two steps. -/
structure Inv (s : State) : Prop where
  windowCanonical : WindowCanonical s
  accumulatorBound : AccumulatorBound s
  adlerReduced : AdlerReduced s
  windowCounters : WindowCounters s
  windowValid : WindowValid s
  copyLegal : CopyLegal s
  countersFit : CountersFit s
  dynamicHeader : DynamicHeader s
  tablesBuilt : TablesBuilt s
  phaseOfMode : PhaseOfMode s
  errorsLegal : ErrorsLegal s
  offersOnlyBusy : OffersOnlyBusy s
  portOfMode : PortOfMode s
  headerLegal : HeaderLegal s
  scanlineBuffers : ScanlineBuffers s

/-! ## Safe steps -/

/-- The faults that the host's own actions cause (R455, U1, U12). -/
def Fault.byHost : Fault → Prop
  | .startWhileBusy | .startReservedMode | .transferNotReady | .inputAfterEnd => True
  | .windowUnwritten | .scanlineUnwritten => False

/-- An outcome that goes on, stops for the host's misuse, or meets an image larger than the
implementation's buffers (D39): no location without a value was read. -/
def safeOutcome : Res → Prop
  | .next _ => True
  | .fault r => r.byHost
  | .refused r => r = .scanlineExceedsSMax

/-! ## Terms of the statements

Second readings of a rule, written from the spec's own formula and not from the model's, and the runs the
statements speak of. -/

/-- `n` steps one after another. -/
def runSteps : Nat → State → Res
  | 0, s => .next s
  | n + 1, s =>
    match step s with
    | .next t => runSteps n t
    | .fault r => .fault r
    | .refused r => .refused r

/-- The block is BUSY, nothing is offered, no scanline is complete and the host does nothing: the next
step reads the element, or makes the pass, of the phase. -/
structure Ready (s : State) : Prop where
  busy : s.runState = .busy
  drained : s.offer = []
  noScanline : s.scanlineDue = false
  noHost : s.host = []

/-- The value of every register to which the spec gives a reset value, the output valids and the control outputs
(R41, R450). -/
def HasResetValues (t : State) : Prop :=
  t.mode = .rawDeflate ∧ t.runState = .idle ∧ t.pos = 0 ∧ t.perr = 0#4 ∧ t.zerr = 0#3 ∧ t.derr = 0#3 ∧
  t.inEnd = false ∧ t.bsr = { acc := 0#32, cnt := 0 } ∧ t.inf.bfinal = false ∧ t.inf.btype = 0#2 ∧
  t.inf.slen = 0#16 ∧ t.inf.snlen = 0#16 ∧ t.inf.srem = 0 ∧ t.inf.hlit = 0 ∧ t.inf.hdist = 0 ∧
  t.inf.hclen = 0 ∧ t.nlens = 0 ∧ t.inf.sym = 0#9 ∧ t.inf.mlen = 0 ∧ t.inf.dsym = 0#5 ∧ t.inf.mdist = 0 ∧
  t.inf.crem = 0 ∧ t.win.wr = 0#15 ∧ t.win.fill = 0 ∧ t.win.total = 0 ∧ t.adl.s1 = 1#16 ∧ t.adl.s2 = 0#16 ∧
  t.zlf = { cmf := 0#8, flg := 0#8, trailer := 0#32 } ∧
  t.chk = { clen := 0#32, ctype := 0#32, idatRem := 0, runDone := false } ∧
  t.ihd = { width := 0#32, height := 0#32, depth := 0#8, colour := 0#8, comp := 0#8, filt := 0#8, ilace := 0#8,
            bpp := 0, S := 0, valid := false } ∧
  t.k = 0 ∧ t.flt.row = 0#32 ∧ t.flt.ferr = false ∧ t.inReady = false ∧ t.busy = false ∧ t.done = false ∧
  t.offer = []

/-- A step of the block itself: the host does nothing, or its next action is `pass`. -/
def BlockMoves (s : State) : Prop := s.host = [] ∨ ∃ rest, s.host = .pass :: rest

/-- The symbol and the extra bits of a length element (R230 to R258). -/
def lengthOperand : Instr → Option (Nat × Nat)
  | .len257 => some (257, 0)
  | .len258 => some (258, 0)
  | .len259 => some (259, 0)
  | .len260 => some (260, 0)
  | .len261 => some (261, 0)
  | .len262 => some (262, 0)
  | .len263 => some (263, 0)
  | .len264 => some (264, 0)
  | .len265 e => some (265, e.toNat)
  | .len266 e => some (266, e.toNat)
  | .len267 e => some (267, e.toNat)
  | .len268 e => some (268, e.toNat)
  | .len269 e => some (269, e.toNat)
  | .len270 e => some (270, e.toNat)
  | .len271 e => some (271, e.toNat)
  | .len272 e => some (272, e.toNat)
  | .len273 e => some (273, e.toNat)
  | .len274 e => some (274, e.toNat)
  | .len275 e => some (275, e.toNat)
  | .len276 e => some (276, e.toNat)
  | .len277 e => some (277, e.toNat)
  | .len278 e => some (278, e.toNat)
  | .len279 e => some (279, e.toNat)
  | .len280 e => some (280, e.toNat)
  | .len281 e => some (281, e.toNat)
  | .len282 e => some (282, e.toNat)
  | .len283 e => some (283, e.toNat)
  | .len284 e => some (284, e.toNat)
  | .len285 => some (285, 0)
  | _ => none

/-- The symbol and the extra bits of a distance element (R260 to R289). -/
def distOperand : Instr → Option (Nat × Nat)
  | .dist0 => some (0, 0)
  | .dist1 => some (1, 0)
  | .dist2 => some (2, 0)
  | .dist3 => some (3, 0)
  | .dist4 e => some (4, e.toNat)
  | .dist5 e => some (5, e.toNat)
  | .dist6 e => some (6, e.toNat)
  | .dist7 e => some (7, e.toNat)
  | .dist8 e => some (8, e.toNat)
  | .dist9 e => some (9, e.toNat)
  | .dist10 e => some (10, e.toNat)
  | .dist11 e => some (11, e.toNat)
  | .dist12 e => some (12, e.toNat)
  | .dist13 e => some (13, e.toNat)
  | .dist14 e => some (14, e.toNat)
  | .dist15 e => some (15, e.toNat)
  | .dist16 e => some (16, e.toNat)
  | .dist17 e => some (17, e.toNat)
  | .dist18 e => some (18, e.toNat)
  | .dist19 e => some (19, e.toNat)
  | .dist20 e => some (20, e.toNat)
  | .dist21 e => some (21, e.toNat)
  | .dist22 e => some (22, e.toNat)
  | .dist23 e => some (23, e.toNat)
  | .dist24 e => some (24, e.toNat)
  | .dist25 e => some (25, e.toNat)
  | .dist26 e => some (26, e.toNat)
  | .dist27 e => some (27, e.toNat)
  | .dist28 e => some (28, e.toNat)
  | .dist29 e => some (29, e.toNat)
  | _ => none

/-- The repeat count and the repeated length of a code-length repeat, given the previous length (R200 to
R202). -/
def repeatOperand (previous : BitVec 4) : Instr → Option (Nat × BitVec 4)
  | .clRep e => some (3 + e.toNat, previous)
  | .clZrep3 e => some (3 + e.toNat, 0#4)
  | .clZrep11 e => some (11 + e.toNat, 0#4)
  | _ => none

/-- Each bit of a read sequence as the rule R157 counts it: data reads (`true`) and Huffman reads
(`false`), one after another. -/
def readMixed : List (Bool × Nat) → State → Rd State Unit
  | [], s => .got () s
  | (data, n) :: rest, s =>
    (if data then getDataBits n s else getHuffmanBits n s).bind fun _ t => readMixed rest t

/-- `next_code[L]` before any symbol is assigned, by the formula of R167. -/
def firstCodeOf (lens : List (BitVec 4)) : Nat → Nat
  | 0 => 0
  | 1 => 0
  | L + 2 => (firstCodeOf lens (L + 1) + lens.countP fun l => decide (l.toNat = L + 1)) * 2

/-- 2^15 times the sum of 2^(−L) over the non-zero lengths (R170). -/
def kraftSum (lens : List (BitVec 4)) : Nat :=
  (lens.map fun l => if l = 0#4 then 0 else 2 ^ (15 - l.toNat)).sum

/-- A table built from a length vector that is not over-subscribed (R170). -/
def Canonical (T : HufTable) : Prop := ∃ lens, T = hufTable lens ∧ kraftSum lens ≤ 2 ^ 15

/-- The sum Σ (n − i + 1) × b_i of R144, the bytes numbered from 1. -/
def weightedSum : List Byte → Nat
  | [] => 0
  | b :: bs => (bs.length + 1) * b.toNat + weightedSum bs

/-- The Adler-32 sums after a byte sequence from the initial state (R144). -/
def adlerOf (bytes : List Byte) : Adl := bytes.foldl (fun a b => adlerUpdate b a) adlerInit

/-- `n` reads of the IDAT feeder, in order (R330). -/
def feedBytes : Nat → State → Rd State (List Byte)
  | 0, s => .got [] s
  | n + 1, s => (feederGet s).bind fun b t => (feedBytes n t).map fun bs => b :: bs

/-- The input bytes that follow the payload of an IDAT chunk when IDAT chunks with these payloads come
next: before each payload the CRC of the chunk before it, then the header (R118, R330). -/
def idatChunks : List (List Byte × List Byte) → List Byte
  | [] => []
  | (crc, payload) :: rest =>
    crc ++ bytesBE 4 payload.length ++ bytesBE 4 typeIdat.toNat ++ payload ++ idatChunks rest

/-- The input bytes of IDAT chunks of length 0 with these CRC bytes before their headers (R118, R330). -/
def emptyIdatChunks (crcs : List (List Byte)) : List Byte := idatChunks (crcs.map fun crc => (crc, []))

/-- The input queue holds the rest of an IDAT payload and IDAT chunks after it, whose payload bytes together are
`payload`, and then the bytes `after` (R330, R91). -/
def FeederHolds (s : State) (payload after : List Byte) : Prop :=
  ∃ (first : List Byte) (chunks : List (List Byte × List Byte)),
    s.chk.idatRem = first.length ∧ s.fifo = first ++ idatChunks chunks ++ after ∧
    (∀ c ∈ chunks, c.1.length = 4 ∧ c.2.length < 2 ^ 32) ∧ payload = first ++ chunks.flatMap Prod.snd

/-- The accepted pairs of colour type and bit depth with their bytes per pixel (the table of R358). -/
def pixelFormats : List (Byte × Byte × Nat) :=
  [(0#8, 8#8, 1), (0#8, 16#8, 2), (2#8, 8#8, 3), (2#8, 16#8, 6),
   (4#8, 8#8, 2), (4#8, 16#8, 4), (6#8, 8#8, 4), (6#8, 16#8, 8)]

/-- The predictor of a filter type, from the formulas of R374 to R378. -/
def predictorOf : Instr → Option (Byte → Byte → Byte → Byte)
  | .fltNone => some fun _ _ _ => 0#8
  | .fltSub => some fun a _ _ => a
  | .fltUp => some fun _ b _ => b
  | .fltAvg => some fun a b _ => BitVec.ofNat 8 ((a.toNat + b.toNat) / 2)
  | .fltPaeth => some paeth
  | _ => none

/-- The neighbours of R373 in a scanline `raw` above which `prior` lies. -/
def neighbourA (bpp : Nat) (raw : List Byte) (x : Nat) : Byte := if bpp ≤ x then raw.getD (x - bpp) 0#8 else 0#8
def neighbourB (first : Bool) (prior : List Byte) (x : Nat) : Byte := if first then 0#8 else prior.getD x 0#8
def neighbourC (bpp : Nat) (first : Bool) (prior : List Byte) (x : Nat) : Byte :=
  if first = false ∧ bpp ≤ x then prior.getD (x - bpp) 0#8 else 0#8

/-- Applying a filter: `in(x) = (raw(x) − predictor(x)) mod 256` (R383). -/
def applyFilter (pred : Byte → Byte → Byte → Byte) (bpp : Nat) (first : Bool) (prior raw : List Byte) : List Byte :=
  (List.range raw.length).map fun x =>
    raw.getD x 0#8 - pred (neighbourA bpp raw x) (neighbourB first prior x) (neighbourC bpp first prior x)

end Sys2Proof.Machine
end

