-- ==== Sys2Proof/Certificates/Slice0/Obligations.lean ====
section
/-! DEFINITION. What the rules of spec/ say this machine does, as propositions about the model. Terms that
are not the model's own are defined at the end of Sys2Proof/Safety.lean. -/

open Sys2Proof Sys2Proof.Machine

/-! ## Encoding and decoding -/

/-- Words written out from the formats decode to the elements they stand for (R101, R102, R103, R106, R107,
R109, R110, R111, R114, R118). -/
def Obligations.WrittenWordsDecode : Prop :=
  -- BFINAL = 1, BTYPE = 01: stream bits 1, 1, 0
  decode bitReader tableCtx .bh [true, true, false] = .got (.blkFixed true) [] ∧
  -- BFINAL = 0, BTYPE = 10: stream bits 0, 0, 1
  decode bitReader tableCtx .bh [false, false, true] = .got (.blkDyn false) [] ∧
  -- bytes 05 00 FA FF
  decode bitReader tableCtx .sh (bitsOfBytes [0x05#8, 0x00#8, 0xFA#8, 0xFF#8]) =
    .got (.storedHdr 5#16 0xFFFA#16) [] ∧
  -- HLIT field 3, HDIST field 1, HCLEN field 8, each lowest bit first
  decode bitReader tableCtx .dh
      [true, true, false, false, false, true, false, false, false, false, false, false, false, true] =
    .got (.dynHdr 3#5 1#5 8#4) [] ∧
  -- the fixed code 10100100 of 't' = 0x74
  decode bitReader tableCtx .lls [true, false, true, false, false, true, false, false] = .got (.lit 0x74#8) [] ∧
  -- symbol 265, code 0001001, then its extra bit 1
  decode bitReader tableCtx .lls [false, false, false, true, false, false, true, true] = .got (.len265 1#1) [] ∧
  -- distance symbol 6, code 00110, then the extra bits 1, 0: the value 1
  decode bitReader tableCtx .ds [false, false, true, true, false, true, false] = .got (.dist6 1#2) [] ∧
  -- bytes 78 9C, and 78 20 with FDICT
  decode bitReader tableCtx .zh (bitsOfBytes [0x78#8, 0x9C#8]) = .got (.zlibHdr 0x78#8 0x9C#8) [] ∧
  decode bitReader tableCtx .zh (bitsOfBytes [0x78#8, 0x20#8]) = .got (.zlibHdrFdict 0x78#8 0x20#8) [] ∧
  -- bytes 00 00 00 0D 49 48 44 52
  decode bitReader tableCtx .ch (bitsOfBytes [0#8, 0#8, 0#8, 0x0D#8, 0x49#8, 0x48#8, 0x44#8, 0x52#8]) =
    .got (.chunkIhdr 13#32) []

/-- The fixed codes of R109 and R110: the numeric code of every symbol, at its length, first stream bit
most significant; the two patterns that no distance symbol has are `CorruptSymbol`. -/
def Obligations.FixedCodes : Prop :=
  (∀ sym, sym < 288 → (hufTable fixedLitLengths).symbolBits sym = some
    (if sym ≤ 143 then codeBits 8 (0x30 + sym)
     else if sym ≤ 255 then codeBits 9 (0x190 + (sym - 144))
     else if sym ≤ 279 then codeBits 7 (sym - 256)
     else codeBits 8 (0xC0 + (sym - 280)))) ∧
  (∀ d, d < 30 → (hufTable fixedDistLengths).symbolBits d = some (codeBits 5 d)) ∧
  (hufTable fixedDistLengths).entries.length = 30 ∧
  decodeSymbol bitReader (hufTable fixedDistLengths) [true, true, true, true, false] = .corrupt ∧
  decodeSymbol bitReader (hufTable fixedDistLengths) [true, true, true, true, true] = .corrupt

/-- Every element the decoder reads, from any source, is a well-formed element of the format asked for. -/
def Obligations.DecodedElementsAreWellFormed : Prop :=
  ∀ (σ : Type) (R : Reader σ) (c : Ctx) (f : Fmt) (s : σ) (i : Instr) (t : σ),
    4 ≤ c.hclen → c.hclen ≤ 19 → decode R c f s = .got i t → i.wellFormed = true ∧ i.fmt = f

/-- Decoding drops no bit: whatever the tables, the bits consumed are exactly the encoding of the element
read. (Symbol 16 as the first code-length symbol is the exception: its extra bits are not read, R200.) -/
def Obligations.DecodeConsumesTheEncoding : Prop :=
  ∀ (c : Ctx) (f : Fmt) (bits rest : List Bool) (i : Instr),
    decode bitReader c f bits = .got i rest → (∀ e, i = .clRep e → c.nlens ≠ 0) →
    ∃ w, encode c i = some w ∧ bits = w ++ rest

/-- Decoding inverts encoding: with tables of length sets that are not over-subscribed, every well-formed
element, with every operand value, decodes from its encoding to itself. -/
def Obligations.DecodeInvertsEncode : Prop :=
  ∀ (c : Ctx) (i : Instr) (w rest : List Bool),
    Canonical c.cl → Canonical c.ll → Canonical c.dt → i.wellFormed = true →
    (∀ lens, i = .dynCll lens → lens.length = c.hclen) → (∀ e, i = .clRep e → c.nlens ≠ 0) →
    encode c i = some w → decode bitReader c i.fmt (w ++ rest) = .got i rest

/-! ## The Huffman unit -/

/-- The table build: every symbol's length and code, by the formulas of R166 to R168; `T.min` and `T.max` are
the least and greatest length present, both 0 when there is none. -/
def Obligations.BuildAssignsCodes : Prop :=
  ∀ lens : List (BitVec 4),
    (hufTable lens).entries.length = lens.length ∧
    (∀ i l, lens[i]? = some l → (hufTable lens).entries[i]? = some
      (HufEntry.mk l (if l = 0#4 then none
        else some (BitVec.ofNat 15
          ((firstCodeOf lens l.toNat + (lens.take i).countP fun m => decide (m = l)) % 2 ^ l.toNat))))) ∧
    ((∀ l ∈ lens, l = 0#4) → (hufTable lens).min = 0 ∧ (hufTable lens).max = 0) ∧
    (∀ l ∈ lens, l ≠ 0#4 →
      (hufTable lens).min ≤ l.toNat ∧ l.toNat ≤ (hufTable lens).max ∧
      (∃ m ∈ lens, m.toNat = (hufTable lens).min ∧ m ≠ 0#4) ∧ (∃ m ∈ lens, m.toNat = (hufTable lens).max))

/-- `DecodeSymbol`: the bits consumed are the code of the symbol returned, most significant bit first, and no
smaller symbol has the same length and code; with an empty table every decode is `CorruptSymbol` and no bit is
asked for, whatever the source (R171 (a), R172, R173). -/
def Obligations.DecodeSymbolTakesTheCode : Prop :=
  (∀ (T : HufTable) (bits rest : List Bool) (i : Nat), decodeSymbol bitReader T bits = .got i rest →
    ∃ len code, T.entries[i]? = some (HufEntry.mk len (some code)) ∧ len ≠ 0#4 ∧
      bits = codeBits len.toNat code.toNat ++ rest ∧
      ∀ j, j < i → T.entries[j]? ≠ some (HufEntry.mk len (some code))) ∧
  (∀ (σ : Type) (R : Reader σ) (lens : List (BitVec 4)) (s : σ),
    (∀ l ∈ lens, l = 0#4) → decodeSymbol R (hufTable lens) s = .corrupt)

/-! ## The bit-stream reader -/

/-- `GetDataBits(n)` and `GetHuffmanBits(n)` on the primary source: the next n stream bits, assembled with the
first one lowest or highest, the same bits consumed and the same state left in both modes; only the
accumulator, the input queue and `POS` change. Where fewer bits are left both reads are `EOF` when the end flag is
set, and hold when it is not (R72, R73, R151, R154, R157, R61, R465). -/
def Obligations.ReadsTakeStreamBits : Prop :=
  ∀ (s : State) (n : Nat), s.mode ≠ .png → AccumulatorBound s → n ≤ 16 →
    (n ≤ s.streamBits.length →
      ∃ t, getDataBits n s = .got (natOfBits (s.streamBits.take n)) t ∧
        getHuffmanBits n s = .got (natOfBits (s.streamBits.take n).reverse) t ∧
        t.streamBits = s.streamBits.drop n ∧ AccumulatorBound t ∧
        t = { s with bsr := t.bsr, fifo := t.fifo, pos := t.pos } ∧
        8 * t.pos + s.bsr.cnt = 8 * s.pos + n + t.bsr.cnt) ∧
    (s.streamBits.length < n →
      getDataBits n s = (if s.inEnd then .eof else .wait) ∧
      getHuffmanBits n s = (if s.inEnd then .eof else .wait))

/-- One Huffman bit is one data bit, and byte consumption depends only on the total number k of bits: from a
fresh reader, reads of k bits in all, data reads of up to 16 bits and Huffman reads of up to 15, consume exactly
ceil(k / 8) bytes of the current source, the primary one in modes 0 and 1 and the IDAT feeder in mode 2 (R157,
R151, R154, R11). -/
def Obligations.MixedReadsConsumeBytes : Prop :=
  (∀ s : State, getHuffmanBits 1 s = getDataBits 1 s) ∧
  ∀ (s : State) (reads : List (Bool × Nat)) (k : Nat), s.bsr = { acc := 0#32, cnt := 0 } →
    (∀ r ∈ reads, r.2 ≤ if r.1 then 16 else 15) → k = (reads.map Prod.snd).sum →
    (s.mode ≠ .png → k ≤ 8 * s.fifo.length →
      ∃ t, readMixed reads s = .got () t ∧ t.fifo = s.fifo.drop ((k + 7) / 8) ∧
        t.pos = s.pos + (k + 7) / 8 ∧ t.bsr.cnt = (8 - k % 8) % 8) ∧
    (∀ payload after, s.mode = .png → FeederHolds s payload after → k ≤ 8 * payload.length →
      ∃ t, readMixed reads s = .got () t ∧ FeederHolds t (payload.drop ((k + 7) / 8)) after ∧
        t.bsr.cnt = (8 - k % 8) % 8)

/-- `AlignToByte()`: the unread bits of the last byte are discarded unexamined, no byte is consumed, nothing
else changes (R155). -/
def Obligations.AlignDiscardsTheResidue : Prop :=
  ∀ s : State, AccumulatorBound s → alignToByte s = { s with bsr := { acc := 0#32, cnt := 0 } }

/-- The machine's decoder, reading through the accumulator and the input queue, is the list decoder on the
unread stream bits: for the DEFLATE formats, in modes 0 and 1. The framing formats are read from the bytes of
the input queue, past the accumulator: the zlib framer's in modes 0 and 1, the chunk iterator's and the IHDR
parser's in every mode. In mode 2 the DEFLATE decoder and the zlib framer read through the IDAT feeder: what the
list decoder reads from the concatenated IDAT payloads (after the accumulator's bits, for the DEFLATE formats)
they read, whatever chunk boundaries lie between (R11, R330, R91). -/
def Obligations.FetchIsListDecode : Prop :=
  ∀ (s : State) (f : Fmt) (i : Instr) (rest : List Bool),
    (s.mode ≠ .png → AccumulatorBound s → f ∈ [Fmt.bh, .sh, .dh, .cll, .cls, .lls, .ds] →
      decode bitReader s.ctx f s.streamBits = .got i rest →
      ∃ t, fetch f s = .got i t ∧ t.streamBits = rest ∧ AccumulatorBound t ∧
        t = { s with bsr := t.bsr, fifo := t.fifo, pos := t.pos }) ∧
    (s.mode ≠ .png ∧ f ∈ [Fmt.zh, .zd, .zt] ∨ f ∈ [Fmt.sig, .ch, .ih] →
      decode bitReader s.ctx f (bitsOfBytes s.fifo) = .got i rest →
      ∃ t, fetch f s = .got i t ∧ bitsOfBytes t.fifo = rest ∧ t = { s with fifo := t.fifo, pos := t.pos } ∧
        t.pos + t.fifo.length = s.pos + s.fifo.length) ∧
    (∀ payload after, s.mode = .png → FeederHolds s payload after → AccumulatorBound s →
      f ∈ [Fmt.bh, .sh, .dh, .cll, .cls, .lls, .ds] →
      decode bitReader s.ctx f (s.accBits ++ bitsOfBytes payload) = .got i rest →
      ∃ t left, fetch f s = .got i t ∧ FeederHolds t left after ∧ t.accBits ++ bitsOfBytes left = rest ∧
        AccumulatorBound t ∧ t = { s with bsr := t.bsr, fifo := t.fifo, pos := t.pos, chk := t.chk } ∧
        t.pos + t.fifo.length = s.pos + s.fifo.length) ∧
    (∀ payload after, s.mode = .png → FeederHolds s payload after → f ∈ [Fmt.zh, .zd, .zt] →
      decode bitReader s.ctx f (bitsOfBytes payload) = .got i rest →
      ∃ t left, fetch f s = .got i t ∧ FeederHolds t left after ∧ bitsOfBytes left = rest ∧
        t = { s with fifo := t.fifo, pos := t.pos, chk := t.chk } ∧
        t.pos + t.fifo.length = s.pos + s.fifo.length)

/-! ## A step -/

/-- A step runs the decoded element: when the next element decodes to i, the step is i's meaning in the state
after the read; a complete filtered scanline is reconstructed before anything else; a host action comes
before the block's own step. What one step is, is the model's choice (log entry 1); so is that a complete scanline
is reconstructed by the very next step (second clause, log entry 8) and that the host's actions are a list whose
head goes first (third clause, log entry 2). -/
def Obligations.StepRunsTheElement : Prop :=
  (∀ (s t : State) (f : Fmt) (i : Instr), Ready s → s.phase.fmt = some f →
    decode (readerOf f) s.ctx f s = .got i t → step s = exec i t) ∧
  (∀ (s : State), s.runState = .busy → s.offer = [] → s.host = [] → s.scanlineDue = true →
    step s = exec (filterInstr (s.flt.pend.getD 0 0#8)) s) ∧
  (∀ (s : State) (e : HostEvent) (rest : List HostEvent), s.host = e :: rest →
    step s = hostStep e { s with host := rest })

/-- Where the next element cannot be read. An early end of input is raised by the layer whose read failed, and a
code that matches no symbol is `CorruptSymbol` (R410, R206, R172). A missing byte is no end of input: while the
end flag is clear no read of the primary source fails with `EOF`, that is no element read in modes 0 and 1, and no
read of the signature, a chunk header or the IHDR payload in any mode, and the block holds (R465).
That one element is one step (log entry 1), that a read that waits with bytes of its element already there leaves
them all unread (last step clause, log entry 9), and that the latch leaves all other state as it was (R431, log entry
7) are the model's choices. -/
def Obligations.FailedReadsLatchOrHold : Prop :=
  ∀ (s : State) (f : Fmt), s.phase.fmt = some f →
    (Ready s → fetch f s = .eof → f ∈ [Fmt.bh, .sh, .dh, .cll, .cls, .lls, .ds] →
      step s = .next (latch (.deflate .endOfStream) s)) ∧
    (Ready s → fetch f s = .eof → f ∈ [Fmt.zh, .zd, .zt] →
      step s = .next (latch (.zlib .prematureEndOfStream) s)) ∧
    (Ready s → fetch f s = .eof → f ∈ [Fmt.sig, .ch, .ih] →
      step s = .next (latch (.png .prematureEndOfFile) s)) ∧
    (Ready s → fetch f s = .corrupt → step s = .next (latch (.deflate .corruptSymbol) s)) ∧
    (Ready s → fetch f s = .wait → step s = .next s) ∧
    (s.inEnd = false → s.mode ≠ .png ∨ f ∈ [Fmt.sig, .ch, .ih] → fetch f s ≠ .eof)

/-! ## Block headers and the stored block -/

/-- BLK.STORED, BLK.FIXED, BLK.DYN: the two header registers, the alignment or the fixed tables, and which
element comes next; nothing else changes; BLK.RSVD is `InvalidBlockType`, whatever BFINAL is (R187, R188, R192,
R193, R194, R40). That the latch leaves all other state as it was is the model's choice (R431, log entry 7). -/
def Obligations.BlockHeadersComplete : Prop :=
  ∀ (s : State) (f : Bool),
    (AccumulatorBound s → exec (.blkStored f) s = .next { s with
      inf := { s.inf with bfinal := f, btype := 0#2 }
      bsr := { acc := 0#32, cnt := 0 }
      phase := .storedHdr }) ∧
    exec (.blkFixed f) s = .next { s with
      inf := { s.inf with bfinal := f, btype := 1#2 }
      huf := { s.huf with
        ll := hufTable (List.replicate 144 8#4 ++ List.replicate 112 9#4 ++ List.replicate 24 7#4 ++ List.replicate 8 8#4)
        dt := hufTable (List.replicate 30 5#4)
        count := lengthCounts (List.replicate 30 5#4)
        nextCode := hufNextCode (List.replicate 30 5#4) }
      phase := .body } ∧
    exec (.blkDyn f) s = .next { s with
      inf := { s.inf with bfinal := f, btype := 2#2 }
      phase := .dynHdr } ∧
    exec (.blkRsvd f) s =
      .next (latch (.deflate .invalidBlockType) { s with inf := { s.inf with bfinal := f, btype := 3#2 } })

/-- STORED.HDR: a consistent header starts the copy of LEN bytes, any other is `LengthCorrupt` before any raw
byte (R189). That the latch leaves all other state as it was is the model's choice (R431, log entry 7). -/
def Obligations.StoredHeaderChecksLength : Prop :=
  ∀ (s : State) (len nlen : BitVec 16),
    (nlen = ~~~len → exec (.storedHdr len nlen) s = .next { s with
      inf := { s.inf with slen := len, snlen := nlen, srem := len.toNat }
      phase := .storedCopy }) ∧
    (nlen ≠ ~~~len → exec (.storedHdr len nlen) s =
      .next (latch (.deflate .lengthCorrupt) { s with inf := { s.inf with slen := len, snlen := nlen } }))

/-- The stored copy delivers exactly the next `INF.srem` raw bytes, in order, and consumes exactly them; the
accumulator is not touched (R190, R191). The number of steps is the model's (log entries 1, 13). -/
def Obligations.StoredCopyDeliversRawBytes : Prop :=
  ∀ (s : State) (raw rest : List Byte), Ready s → s.mode ≠ .png → s.phase = .storedCopy →
    s.obReady = true → s.inf.srem = raw.length → s.fifo = raw ++ rest →
    ∃ t, runSteps (2 * raw.length) s = .next t ∧ Ready t ∧ t.phase = .storedCopy ∧ t.inf.srem = 0 ∧
      t.log = s.log ++ raw.map .byte ∧ t.fifo = rest ∧ t.pos = s.pos + raw.length ∧ t.bsr = s.bsr ∧
      t.win.total = s.win.total + raw.length

/-! ## The dynamic header -/

/-- DYN.HDR: the three counts with their offsets, no range check (R195). -/
def Obligations.DynamicHeaderCounts : Prop :=
  ∀ (s : State) (hlit hdist : BitVec 5) (hclen : BitVec 4), exec (.dynHdr hlit hdist hclen) s = .next { s with
    inf := { s.inf with hlit := hlit.toNat + 257, hdist := hdist.toNat + 1, hclen := hclen.toNat + 4 }
    phase := .dynCll }

/-- DYN.CLL: the i-th length is placed at `CLORD[i]`, the missing ones are 0, the `CL` table is built from the
nineteen lengths, and the length vector starts empty (R196, R197, R198, R113). -/
def Obligations.CodeLengthCodeIsPlaced : Prop :=
  ∀ (s : State) (lens : List (BitVec 3)), ∃ cll : List (BitVec 3), cll.length = 19 ∧
    (∀ i, i < 19 → cll.getD ([16,17,18,0,8,7,9,6,10,5,11,4,12,3,13,2,14,1,15].getD i 0) 0#3 = lens.getD i 0#3) ∧
    exec (.dynCll lens) s = .next { s with
      inf := { s.inf with cll := cll, lens := [] }
      huf := { s.huf with
        cl := hufTable (cll.map (BitVec.zeroExtend 4))
        count := lengthCounts (cll.map (BitVec.zeroExtend 4))
        nextCode := hufNextCode (cll.map (BitVec.zeroExtend 4)) }
      phase := .codeLens }

/-- Appended code lengths: while some are missing only the vector grows; when the last one is known both
tables are built from its two parts and the body begins (R198, R199, R204). -/
def Obligations.CodeLengthsFillBothTables : Prop :=
  ∀ (s : State) (ls : List (BitVec 4)),
    ((s.inf.lens ++ ls).length < s.inf.hlit + s.inf.hdist →
      appendLens ls s = { s with inf := { s.inf with lens := s.inf.lens ++ ls } }) ∧
    ((s.inf.lens ++ ls).length = s.inf.hlit + s.inf.hdist →
      appendLens ls s = { s with
        inf := { s.inf with lens := s.inf.lens ++ ls }
        huf := { s.huf with
          ll := hufTable ((s.inf.lens ++ ls).take s.inf.hlit)
          dt := hufTable ((s.inf.lens ++ ls).drop s.inf.hlit)
          count := lengthCounts ((s.inf.lens ++ ls).drop s.inf.hlit)
          nextCode := hufNextCode ((s.inf.lens ++ ls).drop s.inf.hlit) }
        phase := .body })

/-- CL.LEN, CL.REP, CL.ZREP3, CL.ZREP11: what each appends; a repeat past the end and symbol 16 as the first
symbol are `InvalidDynamicReference` and append nothing (R199 to R203). That the latch leaves all other state as
it was is the model's choice (R431, log entry 7). -/
def Obligations.CodeLengthSymbols : Prop :=
  ∀ (s : State),
    (∀ l, exec (.clLen l) s = .next (appendLens [l] s)) ∧
    (∀ i previous count value, s.inf.lens.getLast? = some previous ∨ (s.inf.lens = [] ∧ ∀ e, i ≠ .clRep e) →
      repeatOperand previous i = some (count, value) →
      exec i s = .next
        (if s.inf.lens.length + count ≤ s.inf.hlit + s.inf.hdist then appendLens (List.replicate count value) s
         else latch (.deflate .invalidDynamicReference) s)) ∧
    (∀ e, s.inf.lens = [] → exec (.clRep e) s = .next (latch (.deflate .invalidDynamicReference) s))

/-! ## The body of a Huffman block -/

/-- LIT is `Emit` of its byte. `Emit`: the byte is stored at `WIN.wr` and nowhere else, the window counters
advance, the Adler-32 is updated in modes 1 and 2, the byte goes to the mode's consumer; nothing else changes
(R216, R217, R371, R382). That in mode 2 the byte that completes a scanline is only appended, the reconstruction
being the very next step and not part of the push, is the model's choice (log entry 8). -/
def Obligations.LiteralEmitsOneByte : Prop :=
  (∀ (s : State) (b : Byte),
    exec (.lit b) s = .next (emit b { s with inf := { s.inf with sym := b.zeroExtend 9 } })) ∧
  ∀ (s t : State) (b : Byte), Memory.wf s.win.mem = true → t = emit b s →
    Memory.read t.win.mem s.win.wr.toNat = some b ∧
    (∀ a, a ≠ s.win.wr.toNat → Memory.read t.win.mem a = Memory.read s.win.mem a) ∧
    t.win.wr = s.win.wr + 1#15 ∧ t.win.fill = min (s.win.fill + 1) 32768 ∧ t.win.total = s.win.total + 1 ∧
    (s.mode = .rawDeflate → t.adl = s.adl ∧ t.flt = s.flt ∧ t.offer = s.offer ++ [.byte b]) ∧
    (s.mode = .zlib → t.adl = adlerUpdate b s.adl ∧ t.flt = s.flt ∧ t.offer = s.offer ++ [.byte b]) ∧
    (s.mode = .png → t.adl = adlerUpdate b s.adl ∧ t.offer = s.offer ∧
      t.flt = if s.flt.ferr then s.flt else { s.flt with pend := s.flt.pend ++ [b] }) ∧
    t = { s with win := t.win, adl := t.adl, flt := t.flt, offer := t.offer }

/-- EOB: nothing is emitted; another block, the end of the run in mode 0, or the trailer (R218, R186, R205,
R308). -/
def Obligations.EndOfBlockContinues : Prop :=
  ∀ (s : State),
    (s.inf.bfinal = false → exec .eob s = .next { s with inf := { s.inf with sym := 256#9 }, phase := .blockHdr }) ∧
    (s.inf.bfinal = true → s.mode = .rawDeflate →
      exec .eob s = .next { s with inf := { s.inf with sym := 256#9 }, runState := .done }) ∧
    (s.inf.bfinal = true → s.mode ≠ .rawDeflate →
      exec .eob s = .next { s with inf := { s.inf with sym := 256#9 }, phase := .trailer })

/-- LL.INV and DIST.INV: `InvalidSymbol`, nothing emitted (R259, R290). That the latch leaves all other state as
it was is the model's choice (R431, log entry 7). -/
def Obligations.IllegalSymbolsLatch : Prop :=
  ∀ (s : State),
    exec (.llInv false) s = .next (latch (.deflate .invalidSymbol) { s with inf := { s.inf with sym := 286#9 } }) ∧
    exec (.llInv true) s = .next (latch (.deflate .invalidSymbol) { s with inf := { s.inf with sym := 287#9 } }) ∧
    exec (.distInv false) s = .next (latch (.deflate .invalidSymbol) { s with inf := { s.inf with dsym := 30#5 } }) ∧
    exec (.distInv true) s = .next (latch (.deflate .invalidSymbol) { s with inf := { s.inf with dsym := 31#5 } })

/-- LEN257 to LEN285: the match length is `LBASE` + extra of the table of R111; then the distance element;
nothing else changes (R111, R219, R230 to R258). -/
def Obligations.LengthSymbolsSetLength : Prop :=
  ∀ (s : State) (i : Instr) (sym e : Nat), lengthOperand i = some (sym, e) → exec i s = .next { s with
    inf := { s.inf with
      sym := BitVec.ofNat 9 sym
      mlen := [3,4,5,6,7,8,9,10,11,13,15,17,19,23,27,31,35,43,51,59,67,83,99,115,131,163,195,227,258].getD
        (sym - 257) 0 + e }
    phase := .dist }

/-- DIST0 to DIST29: the distance is `DBASE` + extra of the table of R112; a distance not beyond `WIN.fill`
starts the copy of `INF.mlen` bytes, any other is `CorruptDistance` with nothing emitted (R112, R220, R221, R260
to R289). That the latch leaves all other state as it was is the model's choice (R431, log entry 7). -/
def Obligations.DistanceSymbolsStartTheCopy : Prop :=
  ∀ (s : State) (i : Instr) (d e dist : Nat), distOperand i = some (d, e) →
    dist = [1,2,3,4,5,7,9,13,17,25,33,49,65,97,129,193,257,385,513,769,1025,1537,2049,3073,4097,6145,8193,
      12289,16385,24577].getD d 0 + e →
    (dist ≤ s.win.fill → exec i s = .next { s with
      inf := { s.inf with dsym := BitVec.ofNat 5 d, mdist := dist, crem := s.inf.mlen }
      phase := .copy }) ∧
    (s.win.fill < dist → exec i s = .next (latch (.deflate .corruptDistance) { s with
      inf := { s.inf with dsym := BitVec.ofNat 5 d, mdist := dist } }))

/-- The match copy: byte k of the copy is byte k mod D of the last D bytes before the match, also where the
copy overlaps itself; exactly `INF.crem` bytes are delivered, in order (R222, R223, R81). The number of steps is
the model's (log entries 1, 13). -/
def Obligations.MatchCopyRepeatsLastBytes : Prop :=
  ∀ (s : State) (dist n : Nat), Ready s → s.mode ≠ .png → s.phase = .copy → s.obReady = true →
    WindowCanonical s → WindowCounters s → WindowValid s → s.inf.mdist = dist → 1 ≤ dist →
    dist ≤ s.win.fill → s.inf.crem = n →
    ∃ (t : State) (bytes : List Byte), runSteps (2 * n) s = .next t ∧ Ready t ∧ t.phase = .copy ∧
      t.inf.crem = 0 ∧ bytes.length = n ∧ t.log = s.log ++ bytes.map .byte ∧
      (∀ k, k < n → s.windowBack (dist - k % dist) = bytes[k]?) ∧
      t.win.total = s.win.total + n ∧ t.fifo = s.fifo ∧ t.pos = s.pos ∧ t.bsr = s.bsr

/-- The passes of the two copies, in every mode: a byte from the window, or from the byte source, goes to
`Emit`; when none is left the body goes on with the next symbol, or the block is over. An end of input in a
stored copy is `EndOfStream`, a missing byte is waited for (R222, R190, R186, R410, R465). That each pass is one step
(log entry 1), that a stored copy that waits inside a CRC or a chunk header in mode 2 consumes nothing of it (log
entry 9), and that the latch leaves all other state as it was (R431, log entry 7) are the model's choices. -/
def Obligations.CopyPasses : Prop :=
  ∀ (s : State), Ready s →
    (∀ b, s.phase = .copy → s.inf.crem ≠ 0 → s.windowBack s.inf.mdist = some b →
      step s = .next (emit b { s with inf := { s.inf with crem := s.inf.crem - 1 } })) ∧
    (s.phase = .copy → s.inf.crem = 0 → step s = .next { s with phase := .body }) ∧
    (∀ b t, s.phase = .storedCopy → s.inf.srem ≠ 0 → currentGet s = .got b t →
      step s = .next (emit b { t with inf := { s.inf with srem := s.inf.srem - 1 } })) ∧
    (s.phase = .storedCopy → s.inf.srem ≠ 0 → currentGet s = .eof →
      step s = .next (latch (.deflate .endOfStream) s)) ∧
    (s.phase = .storedCopy → s.inf.srem ≠ 0 → currentGet s = .wait → step s = .next s) ∧
    (s.phase = .storedCopy → s.inf.srem = 0 → s.inf.bfinal = false → step s = .next { s with phase := .blockHdr }) ∧
    (s.phase = .storedCopy → s.inf.srem = 0 → s.inf.bfinal = true → s.mode ≠ .rawDeflate →
      step s = .next { s with phase := .trailer }) ∧
    (s.phase = .storedCopy → s.inf.srem = 0 → s.inf.bfinal = true → s.mode = .rawDeflate →
      step s = .next { s with runState := .done })

/-! ## Frames over all instructions -/

/-- Only a literal stores to the window: every other element leaves every byte of it, and its counters, as
they were, but for the zlib headers and the DICTID, which start a stream and so empty the counters (R79,
R185). For an element that raises, what is left of the window is the model's choice (R431, log entry 7). -/
def Obligations.OnlyLiteralsStore : Prop :=
  ∀ (s t : State) (i : Instr), (∀ b, i ≠ .lit b) → exec i s = .next t →
    (∀ a, Memory.read t.win.mem a = Memory.read s.win.mem a) ∧
    (i.fmt ≠ .zh → i.fmt ≠ .zd → t.win = s.win)

/-- The meaning of an element touches none of the input, the mode, the ports' surroundings or the transfers
already made; what it offers is added at the end (R22, R21, R66). For an element that raises, that `POS` and the
input queue stay is the model's choice (R431, log entry 7). -/
def Obligations.ElementsKeepTheInput : Prop :=
  ∀ (s t : State) (i : Instr), exec i s = .next t →
    t.fifo = s.fifo ∧ t.pos = s.pos ∧ t.inEnd = s.inEnd ∧ t.mode = s.mode ∧ t.obReady = s.obReady ∧
    t.slReady = s.slReady ∧ t.host = s.host ∧ t.log = s.log ∧ ∃ new, t.offer = s.offer ++ new

/-- The image header is written by IHDR.PAYLOAD only, the Adler-32 sums by a literal and by the start of a
frame only, the scanline buffers and the row index by literals, IHDR.PAYLOAD and the filters only (R34, R31,
R35, R36). For an element that raises, what is left of the sums and the buffers is the model's choice (R431, log
entry 7). -/
def Obligations.RegistersHaveTheirWriters : Prop :=
  ∀ (s t : State) (i : Instr), exec i s = .next t →
    ((∀ w h d c m f l, i ≠ .ihdrPayload w h d c m f l) → t.ihd = s.ihd) ∧
    ((∀ b, i ≠ .lit b) → (∀ len, i ≠ .chunkIdat len) → t.adl = s.adl) ∧
    ((∀ b, i ≠ .lit b) → (∀ w h d c m f l, i ≠ .ihdrPayload w h d c m f l) → i.fmt ≠ .fs → t.flt = s.flt)

/-! ## The Adler-32 unit and the zlib framer -/

/-- The sums after n bytes, and the four vectors of R144. -/
def Obligations.AdlerSums : Prop :=
  (∀ bytes : List Byte,
    (adlerOf bytes).s1.toNat = (1 + (bytes.map BitVec.toNat).sum) % 65521 ∧
    (adlerOf bytes).s2.toNat = (bytes.length + weightedSum bytes) % 65521 ∧
    (adlerValue (adlerOf bytes)).toNat = (adlerOf bytes).s2.toNat * 65536 + (adlerOf bytes).s1.toNat) ∧
  adlerValue (adlerOf []) = 1#32 ∧
  adlerValue (adlerOf [0x57#8, 0x69#8, 0x6B#8, 0x69#8, 0x70#8, 0x65#8, 0x64#8, 0x69#8, 0x61#8]) = 0x11E60398#32 ∧
  adlerValue (adlerOf
    [0x68#8, 0x65#8, 0x6C#8, 0x6C#8, 0x6F#8, 0x20#8, 0x77#8, 0x6F#8, 0x72#8, 0x6C#8, 0x64#8]) = 0x1A0B045D#32

/-- The zlib header: CM before FCHECK, CINFO and FLEVEL without effect; then the DEFLATE stream starts with an
empty window, or the DICTID comes next, whose four bytes are neither stored nor interpreted (R302 to R306,
R185). That the latch leaves all other state as it was is the model's choice (R431, log entry 7). -/
def Obligations.ZlibHeaderOutcomes : Prop :=
  ∀ (s : State) (cmf flg : Byte),
    (cmf.toNat % 16 ≠ 8 → exec (.zlibHdrBadcm cmf flg) s = .next
      (latch (.zlib .unsupportedCompressionMethod) { s with zlf := { s.zlf with cmf := cmf, flg := flg } })) ∧
    (cmf.toNat % 16 = 8 → (cmf.toNat * 256 + flg.toNat) % 31 ≠ 0 →
      exec (.zlibHdr cmf flg) s = .next
        (latch (.zlib .headerChecksumError) { s with zlf := { s.zlf with cmf := cmf, flg := flg } }) ∧
      exec (.zlibHdrFdict cmf flg) s = .next
        (latch (.zlib .headerChecksumError) { s with zlf := { s.zlf with cmf := cmf, flg := flg } })) ∧
    (cmf.toNat % 16 = 8 → (cmf.toNat * 256 + flg.toNat) % 31 = 0 → flg.getLsbD 5 = false →
      exec (.zlibHdr cmf flg) s = .next { s with
        zlf := { s.zlf with cmf := cmf, flg := flg }
        bsr := { acc := 0#32, cnt := 0 }
        win := { mem := s.win.mem, wr := 0#15, fill := 0, total := 0 }
        inf := { s.inf with bfinal := false }
        phase := .blockHdr }) ∧
    (cmf.toNat % 16 = 8 → (cmf.toNat * 256 + flg.toNat) % 31 = 0 → flg.getLsbD 5 = true →
      exec (.zlibHdrFdict cmf flg) s = .next { s with
        zlf := { s.zlf with cmf := cmf, flg := flg }
        phase := .dictid }) ∧
    (∀ id : Word, exec (.zlibDictid id) s = .next { s with
      bsr := { acc := 0#32, cnt := 0 }
      win := { mem := s.win.mem, wr := 0#15, fill := 0, total := 0 }
      inf := { s.inf with bfinal := false }
      phase := .blockHdr })

/-- ZLIB.TRAILER: a mismatch is `ChecksumError` whatever the filter latch says; a match ends the run in mode 1
and in mode 2 raises the latched filter error or goes on to the rest of the chunk (R308 to R310, R329, R421).
That the latch leaves all other state as it was is the model's choice (R431, log entry 7). -/
def Obligations.TrailerOutcomes : Prop :=
  ∀ (s : State) (stored : Word),
    (stored ≠ s.adl.s2 ++ s.adl.s1 → exec (.zlibTrailer stored) s = .next
      (latch (.zlib .checksumError) { s with zlf := { s.zlf with trailer := stored } })) ∧
    (stored = s.adl.s2 ++ s.adl.s1 → s.mode = .zlib → exec (.zlibTrailer stored) s = .next
      { s with zlf := { s.zlf with trailer := stored }, runState := .done }) ∧
    (stored = s.adl.s2 ++ s.adl.s1 → s.mode = .png → s.flt.ferr = false → exec (.zlibTrailer stored) s = .next
      { s with zlf := { s.zlf with trailer := stored }, phase := .runEnd }) ∧
    (stored = s.adl.s2 ++ s.adl.s1 → s.mode = .png → s.flt.ferr = true → exec (.zlibTrailer stored) s = .next
      (latch (.png .unsupportedFilterType) { s with zlf := { s.zlf with trailer := stored } }))

/-! ## The chunk iterator -/

/-- The start of a file: the eight signature bytes, any other are `BadSignature` (R321). The first chunk: IHDR
with length 13, else `InvalidFirstChunk`, the two header registers written either way (R322). That the latch
leaves all other state as it was is the model's choice (R431, log entry 7). -/
def Obligations.FileStartsWithSignatureAndIhdr : Prop :=
  (∀ (s : State) (bytes : BitVec 64),
    (bytes = 0x89504E470D0A1A0A#64 → exec (.pngSig bytes) s = .next { s with phase := .firstChunk }) ∧
    (bytes ≠ 0x89504E470D0A1A0A#64 → exec (.pngSig bytes) s = .next (latch (.png .badSignature) s))) ∧
  ∀ (s : State) (len ctype : Word), s.phase = .firstChunk →
    (len = 13#32 → exec (.chunkIhdr len) s = .next { s with
      chk := { s.chk with clen := len, ctype := 0x49484452#32 }, phase := .ihdr }) ∧
    (len ≠ 13#32 → exec (.chunkIhdr len) s = .next (latch (.png .invalidFirstChunk) { s with
      chk := { s.chk with clen := len, ctype := 0x49484452#32 } })) ∧
    exec (.chunkIdat len) s = .next (latch (.png .invalidFirstChunk) { s with
      chk := { s.chk with clen := len, ctype := 0x49444154#32 } }) ∧
    exec (.chunkIend len) s = .next (latch (.png .invalidFirstChunk) { s with
      chk := { s.chk with clen := len, ctype := 0x49454E44#32 } }) ∧
    exec (.chunkAnc len ctype) s = .next (latch (.png .invalidFirstChunk) { s with
      chk := { s.chk with clen := len, ctype := ctype } }) ∧
    exec (.chunkCrit len ctype) s = .next (latch (.png .invalidFirstChunk) { s with
      chk := { s.chk with clen := len, ctype := ctype } })

/-- The chunks of the loop, one clause per operation (R326, R327, R328, R332, R333, R334, R300, R140). That the
latch leaves all other state as it was is the model's choice (R431, log entry 7). -/
def Obligations.LoopChunks : Prop :=
  ∀ (s : State) (len ctype : Word), s.phase = .chunk →
    exec (.chunkIhdr len) s = .next (latch (.png .multipleIhdr) { s with
      chk := { s.chk with clen := len, ctype := 0x49484452#32 } }) ∧
    (s.chk.runDone = false → exec (.chunkIdat len) s = .next { s with
      chk := { s.chk with clen := len, ctype := 0x49444154#32, idatRem := len.toNat }
      adl := { s1 := 1#16, s2 := 0#16 }
      phase := .zlibHdr }) ∧
    (s.chk.runDone = true → exec (.chunkIdat len) s = .next { s with
      chk := { s.chk with clen := len, ctype := 0x49444154#32 }
      phase := .chunkSkip }) ∧
    exec (.chunkIend len) s = .next { s with
      chk := { s.chk with clen := len, ctype := 0x49454E44#32 }
      phase := .iendCrc } ∧
    exec (.chunkAnc len ctype) s = .next { s with
      chk := { s.chk with clen := len, ctype := ctype, runDone := false }
      phase := .chunkSkip } ∧
    exec (.chunkCrit len ctype) s = .next (latch (.png .unsupportedCriticalChunk) { s with
      chk := { s.chk with clen := len, ctype := ctype } })

/-- The skips that follow a header: all their bytes are passed over unread, and what comes next (R328, R329,
R332, R333, R361); short input is `PrematureEndOfFile` once the end is known and a hold before (R410, R465). That a
skip is a step of its own (log entry 1), atomic, with the two skips of R329 taken together (log entry 19), that one
that waits consumes nothing (log entry 9), and that the latch leaves all other state as it was (R431, log entry 7)
are the model's readings and choices. -/
def Obligations.SkipsAfterHeaders : Prop :=
  ∀ (s : State) (n : Nat), Ready s →
    (s.phase = .chunkSkip ∧ n = s.chk.clen.toNat + 4 ∨ s.phase = .iendCrc ∧ n = 4 ∨
      s.phase = .ihdrCrc ∧ n = 4 ∨ s.phase = .runEnd ∧ n = s.chk.idatRem + 4) →
    (n ≤ s.fifo.length →
      (s.phase = .chunkSkip ∨ s.phase = .ihdrCrc → step s = .next { s with
        fifo := s.fifo.drop n, pos := s.pos + n, phase := .chunk }) ∧
      (s.phase = .iendCrc → step s = .next { s with
        fifo := s.fifo.drop n, pos := s.pos + n, runState := .done }) ∧
      (s.phase = .runEnd → step s = .next { s with
        fifo := s.fifo.drop n, pos := s.pos + n
        chk := { s.chk with idatRem := 0, runDone := true }, phase := .chunk })) ∧
    (s.fifo.length < n → s.inEnd = true → step s = .next (latch (.png .prematureEndOfFile) s)) ∧
    (s.fifo.length < n → s.inEnd = false → step s = .next s)

/-- The IDAT feeder presents the payloads of consecutive IDAT chunks as one byte sequence, whatever their
number, lengths and CRC bytes; no state but the input queue, `POS` and `CHK` changes (R330, R91, R336). -/
def Obligations.FeederConcatenatesPayloads : Prop :=
  ∀ (s : State) (first rest : List Byte) (chunks : List (List Byte × List Byte)),
    s.chk.idatRem = first.length → s.fifo = first ++ idatChunks chunks ++ rest →
    (∀ c ∈ chunks, c.1.length = 4 ∧ c.2.length < 2 ^ 32) →
    ∃ t, feedBytes (first.length + (chunks.map fun c => c.2.length).sum) s =
        .got (first ++ chunks.flatMap Prod.snd) t ∧
      t = { s with fifo := t.fifo, pos := t.pos, chk := t.chk }

/-- Where the feeder ends: at a chunk that is not IDAT, and at any end of the input inside it, be it in the payload
of the current chunk, in a later CRC or header, or in the payload that such a header begins; all of it also after any
number of IDAT chunks of length 0, which the feeder passes over first (R330, R331). While the end flag is clear a
missing byte is waited for (R465). -/
def Obligations.FeederEnds : Prop :=
  ∀ (s : State) (crcs : List (List Byte)), (∀ c ∈ crcs, c.length = 4) →
    (∀ crc len ctype rest : List Byte, s.chk.idatRem = 0 →
      s.fifo = emptyIdatChunks crcs ++ crc ++ len ++ ctype ++ rest →
      crc.length = 4 → len.length = 4 → ctype.length = 4 → ctype ≠ [0x49#8, 0x44#8, 0x41#8, 0x54#8] →
      feederGet s = .eof) ∧
    (∀ part : List Byte, s.chk.idatRem = 0 → s.fifo = emptyIdatChunks crcs ++ part → part.length < 12 →
      feederGet s = (if s.inEnd then .eof else .wait)) ∧
    (∀ (crc : List Byte) (len : Nat), s.chk.idatRem = 0 → crc.length = 4 → 0 < len → len < 2 ^ 32 →
      s.fifo = emptyIdatChunks crcs ++ crc ++ bytesBE 4 len ++ [0x49#8, 0x44#8, 0x41#8, 0x54#8] →
      feederGet s = (if s.inEnd then .eof else .wait)) ∧
    (s.chk.idatRem ≠ 0 → s.fifo = [] → feederGet s = (if s.inEnd then .eof else .wait))

/-! ## The image header -/

/-- IHDR.PAYLOAD accepted: the seven fields, `bpp` of the table of R358, `S` = width × `bpp`, a fresh
reconstructor, the IHDR event, and the CRC next (R350, R353, R358 to R361). That an image of any size is accepted is
the model's choice of the spec's default, no `S_MAX` (decision D39, log entry 3). -/
def Obligations.ImageHeaderAccepted : Prop :=
  ∀ (s : State) (width height : Word) (depth colour : Byte) (bpp : Nat),
    width.toNat ≤ 0x7FFFFFFF → height.toNat ≤ 0x7FFFFFFF → (colour, depth, bpp) ∈ pixelFormats →
    exec (.ihdrPayload width height depth colour 0#8 0#8 0#8) s = .next { s with
      ihd := { width := width, height := height, depth := depth, colour := colour, comp := 0#8, filt := 0#8,
               ilace := 0#8, bpp := bpp, S := width.toNat * bpp, valid := true }
      flt := { s.flt with pend := [], row := 0#32, ferr := false }
      offer := s.offer ++ [.ihdr width height depth colour 0#8 0#8 0#8 bpp (width.toNat * bpp)]
      phase := .ihdrCrc }

/-- IHDR.PAYLOAD rejected: the first of the six checks that fails is the kind, and no event occurs (R351 to
R357, R361). That the latch leaves all other state as it was is the model's choice (R431, log entry 7). -/
def Obligations.ImageHeaderRejected : Prop :=
  ∀ (s : State) (width height : Word) (depth colour comp filt ilace : Byte) (kind : PngErr),
    some kind =
      (if 0x7FFFFFFF < width.toNat then some .invalidWidth
       else if 0x7FFFFFFF < height.toNat then some .invalidHeight
       else if (colour, depth) ∉ pixelFormats.map (fun p => (p.1, p.2.1)) then some .invalidColorTypeAndBitDepth
       else if comp ≠ 0#8 then some .unsupportedCompressionMethod
       else if filt ≠ 0#8 then some .unsupportedFilterMethod
       else if ilace ≠ 0#8 then some .unsupportedInterlaceMethod
       else none) →
    exec (.ihdrPayload width height depth colour comp filt ilace) s = .next (latch (.png kind) { s with
      ihd := { s.ihd with
        width := width, height := height, depth := depth, colour := colour, comp := comp, filt := filt,
        ilace := ilace } })

/-! ## The scanline filters -/

/-- Every column of a reconstructed scanline is `(in(x) + predictor(a(x), b(x), c(x))) mod 256` with the
neighbours of R373, and there are as many columns as data bytes (R373 to R378, R385). -/
def Obligations.ColumnsAddThePredictor : Prop :=
  ∀ (pred : Byte → Byte → Byte → Byte) (bpp : Nat) (first : Bool) (prior ins cur : List Byte), 0 < bpp →
    cur = filterRow pred bpp first prior ins [] →
    cur.length = ins.length ∧ ∀ x, x < ins.length →
      cur.getD x 0#8 = ins.getD x 0#8 +
        pred (neighbourA bpp cur x) (neighbourB first prior x) (neighbourC bpp first prior x)

/-- FLT.NONE, FLT.SUB, FLT.UP, FLT.AVG, FLT.PAETH: the scanline is reconstructed with the filter's predictor and
delivered with the row index before the increment, nothing else changing; when all its transfers have been
accepted it is the prior one, the row index has advanced and the pending buffer is empty (R372, R374 to R378, R381,
R371). That a transfer takes a step is the model's choice (log entries 1, 13). -/
def Obligations.FiltersDeliverTheScanline : Prop :=
  ∀ (s : State) (i : Instr) (pred : Byte → Byte → Byte → Byte) (ftype : Byte) (ins cur : List Byte),
    predictorOf i = some pred → s.flt.pend = ftype :: ins → ins.length = s.ihd.S →
    (0 < s.ihd.bpp ∨ s.ihd.S = 0) → (s.flt.row = 0#32 ∨ s.flt.prior.length = s.ihd.S) →
    cur = filterRow pred s.ihd.bpp (decide (s.flt.row = 0#32)) s.flt.prior ins [] →
    exec i s = .next { s with
      offer := s.offer ++ scanXfers s.flt.row cur
      flt := { s.flt with cur := cur } } ∧
    (s.runState = .busy → s.host = [] → s.offer = [] → s.slReady = true →
      ∃ t, exec i s = .next t ∧ runSteps (scanXfers s.flt.row cur).length t = .next { s with
        log := s.log ++ scanXfers s.flt.row cur
        flt := { s.flt with pend := [], cur := cur, prior := cur, row := s.flt.row + 1#32 } })

/-- A scanline event on its port: one transfer per column in order, marked first and last; an empty scanline is
one transfer with all three marks (R64, R384). Until the last transfer has been accepted the row index, also on the
status port, and the buffers are those of before the event; then the scanline becomes the prior one, the row
advances and the push ends (R381, R371, R65). That a transfer takes a step is the model's choice (log entries 1,
13). -/
def Obligations.ScanlineTransfers : Prop :=
  (∀ (row : Word) (bytes : List Byte),
    (bytes ≠ [] → (scanXfers row bytes).length = bytes.length ∧ ∀ x, x < bytes.length →
      (scanXfers row bytes)[x]? = some
        (.scan row bytes[x]? (decide (x = 0)) (decide (x + 1 = bytes.length)) false)) ∧
    scanXfers row [] = [.scan row none true true true]) ∧
  ∀ (s : State) (bytes : List Byte), s.runState = .busy → s.host = [] → s.slReady = true →
    s.offer = scanXfers s.flt.row bytes →
    (∀ n, n < (scanXfers s.flt.row bytes).length → ∃ t, runSteps n s = .next t ∧
      t = { s with offer := (scanXfers s.flt.row bytes).drop n, log := s.log ++ (scanXfers s.flt.row bytes).take n } ∧
      t.statusRow = some s.flt.row) ∧
    runSteps (scanXfers s.flt.row bytes).length s = .next { s with
      offer := []
      log := s.log ++ scanXfers s.flt.row bytes
      flt := { s.flt with pend := [], prior := s.flt.cur, row := s.flt.row + 1#32 } }

/-- Reconstruction inverts filtering: applying any predictor by the rule of R383 and reconstructing gives the
raw bytes back. -/
def Obligations.ReconstructionInvertsFilter : Prop :=
  ∀ (pred : Byte → Byte → Byte → Byte) (bpp : Nat) (first : Bool) (prior raw : List Byte), 0 < bpp →
    filterRow pred bpp first prior (applyFilter pred bpp first prior raw) [] = raw

/-- The Paeth predictor: by the distances of R379 in closed form, ties to a before b before c; its law; and what
it is at the left edge and on the first scanline (R378, R379). -/
def Obligations.PaethPredictor : Prop :=
  (∀ a b c : Byte, paeth a b c =
    if ((b.toNat : Int) - c.toNat).natAbs ≤ ((a.toNat : Int) - c.toNat).natAbs ∧
        ((b.toNat : Int) - c.toNat).natAbs ≤ ((a.toNat : Int) + b.toNat - 2 * c.toNat).natAbs then a
    else if ((a.toNat : Int) - c.toNat).natAbs ≤ ((a.toNat : Int) + b.toNat - 2 * c.toNat).natAbs then b
    else c) ∧
  (∀ k : Byte, paeth k k k = k) ∧ (∀ b : Byte, paeth 0#8 b 0#8 = b) ∧ (∀ a : Byte, paeth a 0#8 0#8 = a)

/-- FLT.INV: the error is latched, nothing is delivered, row and prior scanline are kept and the data bytes
are discarded; from then on a pushed byte changes neither the reconstructor nor the offered transfers, but
still enters the window and the Adler-32; and over every step up to the next reset or start the reconstructor stays
as it is and no output transfer occurs (R380, R371, R382, R216). That it stays so also after a later error is latched
is the model's choice where R431 leaves it open (log entry 7). -/
def Obligations.FilterErrorIsSticky : Prop :=
  (∀ (s : State) (t : Byte), exec (.fltInv t) s = .next { s with flt := { s.flt with pend := [], ferr := true } }) ∧
  (∀ (s : State) (b : Byte), s.mode = .png → s.flt.ferr = true →
    (emit b s).flt = s.flt ∧ (emit b s).offer = s.offer ∧ (emit b s).win.total = s.win.total + 1 ∧
    (emit b s).adl = adlerUpdate b s.adl) ∧
  (∀ s t : State, Inv s → s.flt.ferr = true → step s = .next t →
    (∃ rest, s.host = .rst :: rest) ∨ (∃ m rest, s.host = .start m :: rest) ∨
    (t.flt = s.flt ∧ t.log = s.log ∧ t.offer = s.offer))

/-! ## Errors -/

/-- The error latch: the layer's own register takes the code of the kind, each layer above its umbrella code,
`STATE` becomes DONE, and nothing else changes (R430, R411, R412, and the codes of R401 to R403). That the latch
leaves all other state as it was is the model's choice (R431, log entry 7). -/
def Obligations.LatchWritesTheRegisters : Prop :=
  (∀ (s : State) (k : DeflErr),
    (s.mode = .rawDeflate → latch (.deflate k) s = { s with runState := .done, derr := k.code }) ∧
    (s.mode = .zlib → latch (.deflate k) s = { s with runState := .done, derr := k.code, zerr := 4#3 }) ∧
    (s.mode = .png → latch (.deflate k) s =
      { s with runState := .done, derr := k.code, zerr := 4#3, perr := 12#4 })) ∧
  (∀ (s : State) (k : ZlibErr),
    (s.mode ≠ .png → latch (.zlib k) s = { s with runState := .done, zerr := k.code }) ∧
    (s.mode = .png → latch (.zlib k) s = { s with runState := .done, zerr := k.code, perr := 12#4 })) ∧
  (∀ (s : State) (k : PngErr), latch (.png k) s = { s with runState := .done, perr := k.code }) ∧
  [DeflErr.lengthCorrupt, .invalidBlockType, .corruptSymbol, .endOfStream, .invalidDynamicReference,
    .corruptDistance, .invalidSymbol].map (fun k => k.code.toNat) = [1, 2, 3, 4, 5, 6, 7] ∧
  [ZlibErr.prematureEndOfStream, .unsupportedCompressionMethod, .headerChecksumError, .checksumError].map
    (fun k => k.code.toNat) = [1, 2, 3, 5] ∧
  [PngErr.prematureEndOfFile, .badSignature, .invalidFirstChunk, .multipleIhdr, .invalidWidth, .invalidHeight,
    .invalidColorTypeAndBitDepth, .unsupportedCompressionMethod, .unsupportedFilterMethod,
    .unsupportedInterlaceMethod, .unsupportedCriticalChunk, .unsupportedFilterType].map
    (fun k => k.code.toNat) = [1, 2, 3, 4, 5, 6, 7, 8, 9, 10, 11, 13]

/-- DONE is left by reset and start only; until then the error registers, the filter latch, the image header
and the transfers stay as they are and no input is consumed (R431, R433, R454). After an error, that `POS` and the
input queue keep their values is the model's choice (R431, log entry 7). -/
def Obligations.DoneIsLeftByResetOrStart : Prop :=
  ∀ (s t : State), s.runState = .done → step s = .next t →
    (∃ rest, s.host = .rst :: rest) ∨ (∃ m rest, s.host = .start m :: rest) ∨
    (t.runState = .done ∧ t.errors = s.errors ∧ t.flt.ferr = s.flt.ferr ∧ t.ihd = s.ihd ∧ t.log = s.log ∧
      t.offer = s.offer ∧ t.pos = s.pos ∧ t.fifo = s.fifo)

/-! ## Reset, start, ports -/

/-- The reset values that the spec gives, in the state after power-on; and from any state a reset, BUSY or not, is
accepted and answers a next state that has them (R41, R450). -/
def Obligations.ResetValues : Prop :=
  HasResetValues State.reset ∧
  ∀ (s : State) (rest : List HostEvent), s.host = .rst :: rest → ∃ t, step s = .next t ∧ HasResetValues t

/-- Start: accepted in IDLE and DONE, it gives the reset values with `MODE` loaded and `STATE` BUSY, the input
queue empty, and the mode's first element next (R451, R452); while BUSY, and for mode 3, the model has no move
(R455, U1, U12). The values that R41 leaves unspecified are the model's choice (log entries 5 and 6). -/
def Obligations.StartBeginsARun : Prop :=
  ∀ (s : State) (m : BitVec 2) (rest : List HostEvent), s.host = .start m :: rest →
    (s.runState = .busy → step s = .fault .startWhileBusy) ∧
    (s.runState ≠ .busy → m = 3#2 → step s = .fault .startReservedMode) ∧
    (s.runState ≠ .busy → m ≠ 3#2 → step s = .next { State.reset with
      mode := (if m = 0#2 then .rawDeflate else if m = 1#2 then .zlib else .png)
      phase := (if m = 0#2 then .blockHdr else if m = 1#2 then .zlibHdr else .sig)
      runState := .busy, obReady := s.obReady, slReady := s.slReady, host := rest, log := s.log })

/-- The input port: a byte transferred while BUSY and before the end joins the queue; when not BUSY the port is
not ready, and after the end the host must not: the model has no move (R61, R450, R455). The position does not
change: it counts consumption (R22). `in_end` sets the sticky end flag and changes nothing else; nothing but it sets
the flag, and only reset and start clear it (R61, R41, R450, R451). That the port is ready exactly while BUSY, its
queue without bound, and the stop `transferNotReady` are the model's choice (log entry 10); that `in_end` is latched
in any `STATE` is log entry 11's. -/
def Obligations.InputPort : Prop :=
  (∀ (s : State) (b : Byte) (rest : List HostEvent), s.host = .xfer b :: rest →
    (s.runState = .busy → s.inEnd = false → step s = .next { s with host := rest, fifo := s.fifo ++ [b] }) ∧
    (s.runState ≠ .busy → step s = .fault .transferNotReady) ∧
    (s.runState = .busy → s.inEnd = true → step s = .fault .inputAfterEnd)) ∧
  (∀ (s : State) (rest : List HostEvent), s.host = .inEnd :: rest →
    step s = .next { s with host := rest, inEnd := true }) ∧
  ∀ s t : State, step s = .next t →
    (s.inEnd = true → t.inEnd = true ∨ (∃ rest, s.host = .rst :: rest) ∨ ∃ m rest, s.host = .start m :: rest) ∧
    (s.inEnd = false → t.inEnd = true → ∃ rest, s.host = .inEnd :: rest) ∧
    ((∃ rest, s.host = .rst :: rest) ∨ (∃ m rest, s.host = .start m :: rest) → t.inEnd = false)

/-- The status port: `perr`, `zerr`, `derr` are defined exactly at DONE and show the three registers; `pos` exactly
at DONE with all three 0, the run having succeeded; `row` while the block is IDLE or BUSY and after a success; `ferr`
shows the filter latch. A latched error, of whatever kind, is never a success: it shows `done`, its registers, no
`pos` and no `row`, and leaves `ferr` (R65, R23, R430, R431). That `row` has no defined value after an error is log
entry 7's reading of R431, that `ferr` is shown while BUSY log entry 17's of R413, and that there is no output for
`MODE` log entry 21. -/
def Obligations.StatusPort : Prop :=
  (∀ s : State,
    (s.busy = true ↔ s.runState = .busy) ∧ (s.done = true ↔ s.runState = .done) ∧
    (s.succeeded = true ↔ s.runState = .done ∧ s.errors = (0#4, 0#3, 0#3)) ∧
    (∀ e, s.statusErrors = some e ↔ s.runState = .done ∧ e = s.errors) ∧
    (∀ p, s.statusPos = some p ↔ s.runState = .done ∧ s.errors = (0#4, 0#3, 0#3) ∧ p = s.pos) ∧
    (∀ r, s.statusRow = some r ↔ (s.runState = .done → s.errors = (0#4, 0#3, 0#3)) ∧ r = s.flt.row) ∧
    s.statusFerr = s.flt.ferr) ∧
  ∀ (s : State) (k : ErrKind),
    (latch k s).busy = false ∧ (latch k s).done = true ∧ (latch k s).succeeded = false ∧
    (latch k s).statusErrors = some (latch k s).errors ∧ (latch k s).errors ≠ (0#4, 0#3, 0#3) ∧
    (latch k s).statusPos = none ∧ (latch k s).statusRow = none ∧ (latch k s).statusFerr = s.flt.ferr

/-- Back-pressure: an offered transfer whose port is not ready stays offered, with the same data, and no
further operation is completed; when the port is ready exactly that transfer is made, and the last one of a
scanline event completes the delivery, so that the advance of R381 follows (R464, R62 to R64). That a transfer
takes a step is the model's choice (log entries 1, 13). -/
def Obligations.BackPressureHolds : Prop :=
  ∀ (s : State) (x : OutXfer) (rest : List OutXfer), s.runState = .busy → s.host = [] → s.offer = x :: rest →
    (∀ b, x = .byte b → s.obReady = false → step s = .next s) ∧
    (∀ row data f l e, x = .scan row data f l e → s.slReady = false → step s = .next s) ∧
    ((∀ b, x = .byte b → s.obReady = true) → (∀ row data f l e, x = .scan row data f l e → s.slReady = true) →
      step s = .next { s with
        offer := rest
        log := s.log ++ [x]
        flt := if x.endsScanline then { s.flt with pend := [], prior := s.flt.cur, row := s.flt.row + 1#32 }
          else s.flt })

/-- Transfers are made in the order they are produced, and none is taken back: a step of the block adds at the
end of what was made and offered, and only moves the boundary between the two (R66, R88, R432). A step of the block
is one with no host action or the action `pass` (log entry 2). -/
def Obligations.OutputOrderIsKept : Prop :=
  ∀ (s t : State), BlockMoves s → step s = .next t →
    (∃ new, t.log ++ t.offer = s.log ++ s.offer ++ new) ∧ s.log <+: t.log

/-- The position only moves forward, by the bytes consumed, and each byte is consumed once and in order (R22,
R84), in every step of the block, with no host action or the action `pass` (log entry 2). For a step that latches an error, what it leaves of `POS` and the queue is the model's choice (R431, R65, log
entry 7). -/
def Obligations.PositionCountsConsumption : Prop :=
  ∀ (s t : State), BlockMoves s → step s = .next t →
    ∃ n, n ≤ s.fifo.length ∧ t.pos = s.pos + n ∧ t.fifo = s.fifo.drop n

/-! ## Invariants -/

/-- Everything that holds of the block between two steps holds after reset. -/
def Obligations.InvariantAtReset : Prop := Inv State.reset

/-- Every step keeps the invariant of the whole block (R23, R25, R28 to R31, R34, R35, R62, R66, R79, R82, R90,
R371, R381, R412), whatever state it starts in. That it also holds of what an error leaves behind rests on log
entry 7. -/
def Obligations.StepKeepsInvariant : Prop := ∀ s t : State, Inv s → step s = .next t → Inv t

/-- Between operations the bit reader holds 0 to 7 bits and nothing above them (R25); no other part of the
state matters for it. What an error leaves of the reader is the model's choice (log entry 7). -/
def Obligations.StepKeepsAccumulatorBound : Prop :=
  ∀ s t : State, AccumulatorBound s → step s = .next t → AccumulatorBound t

/-- The window memory keeps its canonical form, `WIN.wr` and `WIN.fill` follow `WIN.total`, and every location a
match may read holds a byte of this stream (R30, R79, R82). What an error leaves of the window is the model's choice
(log entry 7). -/
def Obligations.StepKeepsWindow : Prop :=
  ∀ s t : State, WindowCanonical s ∧ WindowCounters s ∧ WindowValid s → step s = .next t →
    WindowCanonical t ∧ WindowCounters t ∧ WindowValid t

/-- In a state that meets the invariant no step reads a location without a value: a step stops only for the
host's misuse, or at an image larger than the implementation's buffers (R82, R35, R83). -/
def Obligations.StepsAreSafe : Prop := ∀ s : State, Inv s → safeOutcome (step s)
end

