-- ==== Sys2Proof/Laws/Memory.lean ====
section
/-! SUPPORT. The laws of the byte memory: a read after a write, and the canonical form. -/

namespace Sys2Proof.Machine

theorem Memory.read_write_same (m : Memory) (a : Nat) (v : Byte) :
    Memory.read (Memory.write m a v) a = some v := by
  induction m with
  | nil => simp [Memory.write, Memory.read]
  | cons c rest ih =>
    obtain ⟨k, w⟩ := c
    by_cases h1 : a < k
    · simp [Memory.write, Memory.read, h1]
    · by_cases h2 : k = a
      · simp [Memory.write, Memory.read, h2]
      · simp [Memory.write, Memory.read, h1, h2, ih]

theorem Memory.read_write_other (m : Memory) (a b : Nat) (v : Byte) (h : a ≠ b)
    (hw : Memory.wf m = true) : Memory.read (Memory.write m a v) b = Memory.read m b := by
  induction m with
  | nil => simp [Memory.write, Memory.read, h]
  | cons c rest ih =>
    obtain ⟨k, w⟩ := c
    simp only [Memory.wf, Bool.and_eq_true] at hw
    by_cases h1 : a < k
    · by_cases h3 : a < b
      · simp [Memory.write, Memory.read, h1, h, Nat.not_lt.mpr (Nat.le_of_lt h3)]
      · have hb : b < a := by omega
        simp [Memory.write, Memory.read, h1, h, hb, show ¬ k = b by omega, show b < k by omega]
    · by_cases h2 : k = a
      · subst h2
        cases rest with
        | nil => simp [Memory.write, Memory.read, h]
        | cons d r => simp [Memory.write, Memory.read, h]
      · have := ih hw.2
        simp [Memory.write, Memory.read, h1, h2, this]

theorem Memory.above_write (m : Memory) (k a : Nat) (v : Byte) (hk : k < a)
    (h : Memory.above k m = true) : Memory.above k (Memory.write m a v) = true := by
  cases m with
  | nil => simp [Memory.write, Memory.above, hk]
  | cons c rest =>
    obtain ⟨j, w⟩ := c
    simp only [Memory.above, decide_eq_true_eq] at h
    unfold Memory.write
    split
    · simp [Memory.above, hk]
    · split <;> simp [Memory.above, h, hk]

/-- Every write keeps the canonical form. -/
theorem Memory.wf_write (m : Memory) (a : Nat) (v : Byte) (h : Memory.wf m = true) :
    Memory.wf (Memory.write m a v) = true := by
  induction m with
  | nil => simp [Memory.write, Memory.wf, Memory.above]
  | cons c rest ih =>
    obtain ⟨k, w⟩ := c
    have h' := h
    simp only [Memory.wf, Bool.and_eq_true] at h
    by_cases h1 : a < k
    · simp only [Memory.write, h1, if_true]
      simp only [Memory.wf, Memory.above, Bool.and_eq_true, decide_eq_true_eq] at h' ⊢
      exact ⟨h1, h'⟩
    · by_cases h2 : k = a
      · subst h2
        simp [Memory.write, Memory.wf, h.1, h.2]
      · simp only [Memory.write, h1, h2, if_false, Memory.wf, Bool.and_eq_true]
        exact ⟨Memory.above_write _ _ _ _ (by omega) h.1, ih h.2⟩

/-- Two canonical memories that read alike are equal: the form is canonical. -/
theorem Memory.ext_of_wf (m n : Memory) (hm : Memory.wf m = true) (hn : Memory.wf n = true)
    (h : ∀ a, Memory.read m a = Memory.read n a) : m = n := by
  induction m generalizing n with
  | nil =>
    cases n with
    | nil => rfl
    | cons c r => obtain ⟨k, w⟩ := c; have := h k; simp [Memory.read] at this
  | cons c rest ih =>
    obtain ⟨k, w⟩ := c
    cases n with
    | nil => have := h k; simp [Memory.read] at this
    | cons d r =>
      obtain ⟨j, x⟩ := d
      have hk := h k; have hj := h j
      have hkj : k = j := by
        by_contra hne
        rcases Nat.lt_or_gt_of_ne hne with hl | hl
        · simp [Memory.read, Ne.symm hne, hl] at hk
        · simp [Memory.read, hne, hl] at hj
      subst hkj
      have hwx : w = x := by simpa [Memory.read] using hk
      subst hwx
      simp only [Memory.wf, Bool.and_eq_true] at hm hn
      congr 1
      apply ih r hm.2 hn.2
      intro a
      have hread : ∀ (l : Memory), Memory.above k l = true → Memory.wf l = true → a ≤ k →
          Memory.read l a = none := by
        intro l ha _ hle
        cases l with
        | nil => rfl
        | cons e t =>
          obtain ⟨y, z⟩ := e
          simp only [Memory.above, decide_eq_true_eq] at ha
          simp [Memory.read, show ¬ y = a by omega, show a < y by omega]
      by_cases hle : a ≤ k
      · rw [hread rest hm.1 hm.2 hle, hread r hn.1 hn.2 hle]
      · have := h a
        simpa [Memory.read, show ¬ k = a by omega, hle, show ¬ a < k by omega] using this

/-! ## The window operation `Win.push` -/

theorem push_wf (b : Byte) (w : Win) (h : Memory.wf w.mem = true) : Memory.wf (w.push b).mem = true :=
  Memory.wf_write _ _ _ h

theorem push_read_same (b : Byte) (w : Win) : Memory.read (w.push b).mem w.wr.toNat = some b :=
  Memory.read_write_same _ _ _

theorem push_read_other (b : Byte) (w : Win) (a : Nat) (h : w.wr.toNat ≠ a) (hw : Memory.wf w.mem = true) :
    Memory.read (w.push b).mem a = Memory.read w.mem a :=
  Memory.read_write_other _ _ _ _ h hw

end Sys2Proof.Machine
end

