-- ==== Sys2Proof/Laws/State.lean ====
section
/-! SUPPORT. Each shared operation, register by register: what it leaves as it was. Provers rewrite with
these and do not unfold the operations. -/

namespace Sys2Proof.Machine

/-! ## `alignToByte` leaves all but bsr -/

@[simp] theorem alignToByte_mode (s : State) : (alignToByte s).mode = s.mode := by
  unfold alignToByte; split <;> rfl
@[simp] theorem alignToByte_runState (s : State) : (alignToByte s).runState = s.runState := by
  unfold alignToByte; split <;> rfl
@[simp] theorem alignToByte_pos (s : State) : (alignToByte s).pos = s.pos := by
  unfold alignToByte; split <;> rfl
@[simp] theorem alignToByte_perr (s : State) : (alignToByte s).perr = s.perr := by
  unfold alignToByte; split <;> rfl
@[simp] theorem alignToByte_zerr (s : State) : (alignToByte s).zerr = s.zerr := by
  unfold alignToByte; split <;> rfl
@[simp] theorem alignToByte_derr (s : State) : (alignToByte s).derr = s.derr := by
  unfold alignToByte; split <;> rfl
@[simp] theorem alignToByte_inEnd (s : State) : (alignToByte s).inEnd = s.inEnd := by
  unfold alignToByte; split <;> rfl
@[simp] theorem alignToByte_phase (s : State) : (alignToByte s).phase = s.phase := by
  unfold alignToByte; split <;> rfl
@[simp] theorem alignToByte_huf (s : State) : (alignToByte s).huf = s.huf := by
  unfold alignToByte; split <;> rfl
@[simp] theorem alignToByte_inf (s : State) : (alignToByte s).inf = s.inf := by
  unfold alignToByte; split <;> rfl
@[simp] theorem alignToByte_win (s : State) : (alignToByte s).win = s.win := by
  unfold alignToByte; split <;> rfl
@[simp] theorem alignToByte_adl (s : State) : (alignToByte s).adl = s.adl := by
  unfold alignToByte; split <;> rfl
@[simp] theorem alignToByte_zlf (s : State) : (alignToByte s).zlf = s.zlf := by
  unfold alignToByte; split <;> rfl
@[simp] theorem alignToByte_chk (s : State) : (alignToByte s).chk = s.chk := by
  unfold alignToByte; split <;> rfl
@[simp] theorem alignToByte_ihd (s : State) : (alignToByte s).ihd = s.ihd := by
  unfold alignToByte; split <;> rfl
@[simp] theorem alignToByte_flt (s : State) : (alignToByte s).flt = s.flt := by
  unfold alignToByte; split <;> rfl
@[simp] theorem alignToByte_fifo (s : State) : (alignToByte s).fifo = s.fifo := by
  unfold alignToByte; split <;> rfl
@[simp] theorem alignToByte_offer (s : State) : (alignToByte s).offer = s.offer := by
  unfold alignToByte; split <;> rfl
@[simp] theorem alignToByte_obReady (s : State) : (alignToByte s).obReady = s.obReady := by
  unfold alignToByte; split <;> rfl
@[simp] theorem alignToByte_slReady (s : State) : (alignToByte s).slReady = s.slReady := by
  unfold alignToByte; split <;> rfl
@[simp] theorem alignToByte_host (s : State) : (alignToByte s).host = s.host := by
  unfold alignToByte; split <;> rfl
@[simp] theorem alignToByte_log (s : State) : (alignToByte s).log = s.log := by
  unfold alignToByte; split <;> rfl

/-! ## `blockHeader` leaves all but inf -/

@[simp] theorem blockHeader_mode (f : Bool) (b : BitVec 2) (s : State) : (blockHeader f b s).mode = s.mode := rfl
@[simp] theorem blockHeader_runState (f : Bool) (b : BitVec 2) (s : State) : (blockHeader f b s).runState = s.runState := rfl
@[simp] theorem blockHeader_pos (f : Bool) (b : BitVec 2) (s : State) : (blockHeader f b s).pos = s.pos := rfl
@[simp] theorem blockHeader_perr (f : Bool) (b : BitVec 2) (s : State) : (blockHeader f b s).perr = s.perr := rfl
@[simp] theorem blockHeader_zerr (f : Bool) (b : BitVec 2) (s : State) : (blockHeader f b s).zerr = s.zerr := rfl
@[simp] theorem blockHeader_derr (f : Bool) (b : BitVec 2) (s : State) : (blockHeader f b s).derr = s.derr := rfl
@[simp] theorem blockHeader_inEnd (f : Bool) (b : BitVec 2) (s : State) : (blockHeader f b s).inEnd = s.inEnd := rfl
@[simp] theorem blockHeader_phase (f : Bool) (b : BitVec 2) (s : State) : (blockHeader f b s).phase = s.phase := rfl
@[simp] theorem blockHeader_bsr (f : Bool) (b : BitVec 2) (s : State) : (blockHeader f b s).bsr = s.bsr := rfl
@[simp] theorem blockHeader_huf (f : Bool) (b : BitVec 2) (s : State) : (blockHeader f b s).huf = s.huf := rfl
@[simp] theorem blockHeader_win (f : Bool) (b : BitVec 2) (s : State) : (blockHeader f b s).win = s.win := rfl
@[simp] theorem blockHeader_adl (f : Bool) (b : BitVec 2) (s : State) : (blockHeader f b s).adl = s.adl := rfl
@[simp] theorem blockHeader_zlf (f : Bool) (b : BitVec 2) (s : State) : (blockHeader f b s).zlf = s.zlf := rfl
@[simp] theorem blockHeader_chk (f : Bool) (b : BitVec 2) (s : State) : (blockHeader f b s).chk = s.chk := rfl
@[simp] theorem blockHeader_ihd (f : Bool) (b : BitVec 2) (s : State) : (blockHeader f b s).ihd = s.ihd := rfl
@[simp] theorem blockHeader_flt (f : Bool) (b : BitVec 2) (s : State) : (blockHeader f b s).flt = s.flt := rfl
@[simp] theorem blockHeader_fifo (f : Bool) (b : BitVec 2) (s : State) : (blockHeader f b s).fifo = s.fifo := rfl
@[simp] theorem blockHeader_offer (f : Bool) (b : BitVec 2) (s : State) : (blockHeader f b s).offer = s.offer := rfl
@[simp] theorem blockHeader_obReady (f : Bool) (b : BitVec 2) (s : State) : (blockHeader f b s).obReady = s.obReady := rfl
@[simp] theorem blockHeader_slReady (f : Bool) (b : BitVec 2) (s : State) : (blockHeader f b s).slReady = s.slReady := rfl
@[simp] theorem blockHeader_host (f : Bool) (b : BitVec 2) (s : State) : (blockHeader f b s).host = s.host := rfl
@[simp] theorem blockHeader_log (f : Bool) (b : BitVec 2) (s : State) : (blockHeader f b s).log = s.log := rfl

/-! ## `fltPush` leaves all but flt -/

@[simp] theorem fltPush_mode (b : Byte) (s : State) : (fltPush b s).mode = s.mode := by
  unfold fltPush; split <;> rfl
@[simp] theorem fltPush_runState (b : Byte) (s : State) : (fltPush b s).runState = s.runState := by
  unfold fltPush; split <;> rfl
@[simp] theorem fltPush_pos (b : Byte) (s : State) : (fltPush b s).pos = s.pos := by
  unfold fltPush; split <;> rfl
@[simp] theorem fltPush_perr (b : Byte) (s : State) : (fltPush b s).perr = s.perr := by
  unfold fltPush; split <;> rfl
@[simp] theorem fltPush_zerr (b : Byte) (s : State) : (fltPush b s).zerr = s.zerr := by
  unfold fltPush; split <;> rfl
@[simp] theorem fltPush_derr (b : Byte) (s : State) : (fltPush b s).derr = s.derr := by
  unfold fltPush; split <;> rfl
@[simp] theorem fltPush_inEnd (b : Byte) (s : State) : (fltPush b s).inEnd = s.inEnd := by
  unfold fltPush; split <;> rfl
@[simp] theorem fltPush_phase (b : Byte) (s : State) : (fltPush b s).phase = s.phase := by
  unfold fltPush; split <;> rfl
@[simp] theorem fltPush_bsr (b : Byte) (s : State) : (fltPush b s).bsr = s.bsr := by
  unfold fltPush; split <;> rfl
@[simp] theorem fltPush_huf (b : Byte) (s : State) : (fltPush b s).huf = s.huf := by
  unfold fltPush; split <;> rfl
@[simp] theorem fltPush_inf (b : Byte) (s : State) : (fltPush b s).inf = s.inf := by
  unfold fltPush; split <;> rfl
@[simp] theorem fltPush_win (b : Byte) (s : State) : (fltPush b s).win = s.win := by
  unfold fltPush; split <;> rfl
@[simp] theorem fltPush_adl (b : Byte) (s : State) : (fltPush b s).adl = s.adl := by
  unfold fltPush; split <;> rfl
@[simp] theorem fltPush_zlf (b : Byte) (s : State) : (fltPush b s).zlf = s.zlf := by
  unfold fltPush; split <;> rfl
@[simp] theorem fltPush_chk (b : Byte) (s : State) : (fltPush b s).chk = s.chk := by
  unfold fltPush; split <;> rfl
@[simp] theorem fltPush_ihd (b : Byte) (s : State) : (fltPush b s).ihd = s.ihd := by
  unfold fltPush; split <;> rfl
@[simp] theorem fltPush_fifo (b : Byte) (s : State) : (fltPush b s).fifo = s.fifo := by
  unfold fltPush; split <;> rfl
@[simp] theorem fltPush_offer (b : Byte) (s : State) : (fltPush b s).offer = s.offer := by
  unfold fltPush; split <;> rfl
@[simp] theorem fltPush_obReady (b : Byte) (s : State) : (fltPush b s).obReady = s.obReady := by
  unfold fltPush; split <;> rfl
@[simp] theorem fltPush_slReady (b : Byte) (s : State) : (fltPush b s).slReady = s.slReady := by
  unfold fltPush; split <;> rfl
@[simp] theorem fltPush_host (b : Byte) (s : State) : (fltPush b s).host = s.host := by
  unfold fltPush; split <;> rfl
@[simp] theorem fltPush_log (b : Byte) (s : State) : (fltPush b s).log = s.log := by
  unfold fltPush; split <;> rfl

/-! ## `emit` leaves all but win, adl, flt, offer -/

@[simp] theorem emit_mode (b : Byte) (s : State) : (emit b s).mode = s.mode := by
  unfold emit; split <;> simp
@[simp] theorem emit_runState (b : Byte) (s : State) : (emit b s).runState = s.runState := by
  unfold emit; split <;> simp
@[simp] theorem emit_pos (b : Byte) (s : State) : (emit b s).pos = s.pos := by
  unfold emit; split <;> simp
@[simp] theorem emit_perr (b : Byte) (s : State) : (emit b s).perr = s.perr := by
  unfold emit; split <;> simp
@[simp] theorem emit_zerr (b : Byte) (s : State) : (emit b s).zerr = s.zerr := by
  unfold emit; split <;> simp
@[simp] theorem emit_derr (b : Byte) (s : State) : (emit b s).derr = s.derr := by
  unfold emit; split <;> simp
@[simp] theorem emit_inEnd (b : Byte) (s : State) : (emit b s).inEnd = s.inEnd := by
  unfold emit; split <;> simp
@[simp] theorem emit_phase (b : Byte) (s : State) : (emit b s).phase = s.phase := by
  unfold emit; split <;> simp
@[simp] theorem emit_bsr (b : Byte) (s : State) : (emit b s).bsr = s.bsr := by
  unfold emit; split <;> simp
@[simp] theorem emit_huf (b : Byte) (s : State) : (emit b s).huf = s.huf := by
  unfold emit; split <;> simp
@[simp] theorem emit_inf (b : Byte) (s : State) : (emit b s).inf = s.inf := by
  unfold emit; split <;> simp
@[simp] theorem emit_zlf (b : Byte) (s : State) : (emit b s).zlf = s.zlf := by
  unfold emit; split <;> simp
@[simp] theorem emit_chk (b : Byte) (s : State) : (emit b s).chk = s.chk := by
  unfold emit; split <;> simp
@[simp] theorem emit_ihd (b : Byte) (s : State) : (emit b s).ihd = s.ihd := by
  unfold emit; split <;> simp
@[simp] theorem emit_fifo (b : Byte) (s : State) : (emit b s).fifo = s.fifo := by
  unfold emit; split <;> simp
@[simp] theorem emit_obReady (b : Byte) (s : State) : (emit b s).obReady = s.obReady := by
  unfold emit; split <;> simp
@[simp] theorem emit_slReady (b : Byte) (s : State) : (emit b s).slReady = s.slReady := by
  unfold emit; split <;> simp
@[simp] theorem emit_host (b : Byte) (s : State) : (emit b s).host = s.host := by
  unfold emit; split <;> simp
@[simp] theorem emit_log (b : Byte) (s : State) : (emit b s).log = s.log := by
  unfold emit; split <;> simp

/-! ## `latch` leaves all but runState, perr, zerr, derr -/

@[simp] theorem latch_mode (k : ErrKind) (s : State) : (latch k s).mode = s.mode := by
  unfold latch; split <;> (try split) <;> rfl
@[simp] theorem latch_pos (k : ErrKind) (s : State) : (latch k s).pos = s.pos := by
  unfold latch; split <;> (try split) <;> rfl
@[simp] theorem latch_inEnd (k : ErrKind) (s : State) : (latch k s).inEnd = s.inEnd := by
  unfold latch; split <;> (try split) <;> rfl
@[simp] theorem latch_phase (k : ErrKind) (s : State) : (latch k s).phase = s.phase := by
  unfold latch; split <;> (try split) <;> rfl
@[simp] theorem latch_bsr (k : ErrKind) (s : State) : (latch k s).bsr = s.bsr := by
  unfold latch; split <;> (try split) <;> rfl
@[simp] theorem latch_huf (k : ErrKind) (s : State) : (latch k s).huf = s.huf := by
  unfold latch; split <;> (try split) <;> rfl
@[simp] theorem latch_inf (k : ErrKind) (s : State) : (latch k s).inf = s.inf := by
  unfold latch; split <;> (try split) <;> rfl
@[simp] theorem latch_win (k : ErrKind) (s : State) : (latch k s).win = s.win := by
  unfold latch; split <;> (try split) <;> rfl
@[simp] theorem latch_adl (k : ErrKind) (s : State) : (latch k s).adl = s.adl := by
  unfold latch; split <;> (try split) <;> rfl
@[simp] theorem latch_zlf (k : ErrKind) (s : State) : (latch k s).zlf = s.zlf := by
  unfold latch; split <;> (try split) <;> rfl
@[simp] theorem latch_chk (k : ErrKind) (s : State) : (latch k s).chk = s.chk := by
  unfold latch; split <;> (try split) <;> rfl
@[simp] theorem latch_ihd (k : ErrKind) (s : State) : (latch k s).ihd = s.ihd := by
  unfold latch; split <;> (try split) <;> rfl
@[simp] theorem latch_flt (k : ErrKind) (s : State) : (latch k s).flt = s.flt := by
  unfold latch; split <;> (try split) <;> rfl
@[simp] theorem latch_fifo (k : ErrKind) (s : State) : (latch k s).fifo = s.fifo := by
  unfold latch; split <;> (try split) <;> rfl
@[simp] theorem latch_offer (k : ErrKind) (s : State) : (latch k s).offer = s.offer := by
  unfold latch; split <;> (try split) <;> rfl
@[simp] theorem latch_obReady (k : ErrKind) (s : State) : (latch k s).obReady = s.obReady := by
  unfold latch; split <;> (try split) <;> rfl
@[simp] theorem latch_slReady (k : ErrKind) (s : State) : (latch k s).slReady = s.slReady := by
  unfold latch; split <;> (try split) <;> rfl
@[simp] theorem latch_host (k : ErrKind) (s : State) : (latch k s).host = s.host := by
  unfold latch; split <;> (try split) <;> rfl
@[simp] theorem latch_log (k : ErrKind) (s : State) : (latch k s).log = s.log := by
  unfold latch; split <;> (try split) <;> rfl

/-! ## `infInit` leaves all but bsr, win, inf, phase -/

@[simp] theorem infInit_mode (s : State) : (infInit s).mode = s.mode := rfl
@[simp] theorem infInit_runState (s : State) : (infInit s).runState = s.runState := rfl
@[simp] theorem infInit_pos (s : State) : (infInit s).pos = s.pos := rfl
@[simp] theorem infInit_perr (s : State) : (infInit s).perr = s.perr := rfl
@[simp] theorem infInit_zerr (s : State) : (infInit s).zerr = s.zerr := rfl
@[simp] theorem infInit_derr (s : State) : (infInit s).derr = s.derr := rfl
@[simp] theorem infInit_inEnd (s : State) : (infInit s).inEnd = s.inEnd := rfl
@[simp] theorem infInit_huf (s : State) : (infInit s).huf = s.huf := rfl
@[simp] theorem infInit_adl (s : State) : (infInit s).adl = s.adl := rfl
@[simp] theorem infInit_zlf (s : State) : (infInit s).zlf = s.zlf := rfl
@[simp] theorem infInit_chk (s : State) : (infInit s).chk = s.chk := rfl
@[simp] theorem infInit_ihd (s : State) : (infInit s).ihd = s.ihd := rfl
@[simp] theorem infInit_flt (s : State) : (infInit s).flt = s.flt := rfl
@[simp] theorem infInit_fifo (s : State) : (infInit s).fifo = s.fifo := rfl
@[simp] theorem infInit_offer (s : State) : (infInit s).offer = s.offer := rfl
@[simp] theorem infInit_obReady (s : State) : (infInit s).obReady = s.obReady := rfl
@[simp] theorem infInit_slReady (s : State) : (infInit s).slReady = s.slReady := rfl
@[simp] theorem infInit_host (s : State) : (infInit s).host = s.host := rfl
@[simp] theorem infInit_log (s : State) : (infInit s).log = s.log := rfl

/-! ## `zlfInit` leaves all but adl, phase -/

@[simp] theorem zlfInit_mode (s : State) : (zlfInit s).mode = s.mode := rfl
@[simp] theorem zlfInit_runState (s : State) : (zlfInit s).runState = s.runState := rfl
@[simp] theorem zlfInit_pos (s : State) : (zlfInit s).pos = s.pos := rfl
@[simp] theorem zlfInit_perr (s : State) : (zlfInit s).perr = s.perr := rfl
@[simp] theorem zlfInit_zerr (s : State) : (zlfInit s).zerr = s.zerr := rfl
@[simp] theorem zlfInit_derr (s : State) : (zlfInit s).derr = s.derr := rfl
@[simp] theorem zlfInit_inEnd (s : State) : (zlfInit s).inEnd = s.inEnd := rfl
@[simp] theorem zlfInit_bsr (s : State) : (zlfInit s).bsr = s.bsr := rfl
@[simp] theorem zlfInit_huf (s : State) : (zlfInit s).huf = s.huf := rfl
@[simp] theorem zlfInit_inf (s : State) : (zlfInit s).inf = s.inf := rfl
@[simp] theorem zlfInit_win (s : State) : (zlfInit s).win = s.win := rfl
@[simp] theorem zlfInit_zlf (s : State) : (zlfInit s).zlf = s.zlf := rfl
@[simp] theorem zlfInit_chk (s : State) : (zlfInit s).chk = s.chk := rfl
@[simp] theorem zlfInit_ihd (s : State) : (zlfInit s).ihd = s.ihd := rfl
@[simp] theorem zlfInit_flt (s : State) : (zlfInit s).flt = s.flt := rfl
@[simp] theorem zlfInit_fifo (s : State) : (zlfInit s).fifo = s.fifo := rfl
@[simp] theorem zlfInit_offer (s : State) : (zlfInit s).offer = s.offer := rfl
@[simp] theorem zlfInit_obReady (s : State) : (zlfInit s).obReady = s.obReady := rfl
@[simp] theorem zlfInit_slReady (s : State) : (zlfInit s).slReady = s.slReady := rfl
@[simp] theorem zlfInit_host (s : State) : (zlfInit s).host = s.host := rfl
@[simp] theorem zlfInit_log (s : State) : (zlfInit s).log = s.log := rfl

/-! ## `succeed` leaves all but runState -/

@[simp] theorem succeed_mode (s : State) : (succeed s).mode = s.mode := rfl
@[simp] theorem succeed_pos (s : State) : (succeed s).pos = s.pos := rfl
@[simp] theorem succeed_perr (s : State) : (succeed s).perr = s.perr := rfl
@[simp] theorem succeed_zerr (s : State) : (succeed s).zerr = s.zerr := rfl
@[simp] theorem succeed_derr (s : State) : (succeed s).derr = s.derr := rfl
@[simp] theorem succeed_inEnd (s : State) : (succeed s).inEnd = s.inEnd := rfl
@[simp] theorem succeed_phase (s : State) : (succeed s).phase = s.phase := rfl
@[simp] theorem succeed_bsr (s : State) : (succeed s).bsr = s.bsr := rfl
@[simp] theorem succeed_huf (s : State) : (succeed s).huf = s.huf := rfl
@[simp] theorem succeed_inf (s : State) : (succeed s).inf = s.inf := rfl
@[simp] theorem succeed_win (s : State) : (succeed s).win = s.win := rfl
@[simp] theorem succeed_adl (s : State) : (succeed s).adl = s.adl := rfl
@[simp] theorem succeed_zlf (s : State) : (succeed s).zlf = s.zlf := rfl
@[simp] theorem succeed_chk (s : State) : (succeed s).chk = s.chk := rfl
@[simp] theorem succeed_ihd (s : State) : (succeed s).ihd = s.ihd := rfl
@[simp] theorem succeed_flt (s : State) : (succeed s).flt = s.flt := rfl
@[simp] theorem succeed_fifo (s : State) : (succeed s).fifo = s.fifo := rfl
@[simp] theorem succeed_offer (s : State) : (succeed s).offer = s.offer := rfl
@[simp] theorem succeed_obReady (s : State) : (succeed s).obReady = s.obReady := rfl
@[simp] theorem succeed_slReady (s : State) : (succeed s).slReady = s.slReady := rfl
@[simp] theorem succeed_host (s : State) : (succeed s).host = s.host := rfl
@[simp] theorem succeed_log (s : State) : (succeed s).log = s.log := rfl

/-! ## `endStream` leaves all but runState, phase -/

@[simp] theorem endStream_mode (s : State) : (endStream s).mode = s.mode := by
  unfold endStream; split <;> rfl
@[simp] theorem endStream_pos (s : State) : (endStream s).pos = s.pos := by
  unfold endStream; split <;> rfl
@[simp] theorem endStream_perr (s : State) : (endStream s).perr = s.perr := by
  unfold endStream; split <;> rfl
@[simp] theorem endStream_zerr (s : State) : (endStream s).zerr = s.zerr := by
  unfold endStream; split <;> rfl
@[simp] theorem endStream_derr (s : State) : (endStream s).derr = s.derr := by
  unfold endStream; split <;> rfl
@[simp] theorem endStream_inEnd (s : State) : (endStream s).inEnd = s.inEnd := by
  unfold endStream; split <;> rfl
@[simp] theorem endStream_bsr (s : State) : (endStream s).bsr = s.bsr := by
  unfold endStream; split <;> rfl
@[simp] theorem endStream_huf (s : State) : (endStream s).huf = s.huf := by
  unfold endStream; split <;> rfl
@[simp] theorem endStream_inf (s : State) : (endStream s).inf = s.inf := by
  unfold endStream; split <;> rfl
@[simp] theorem endStream_win (s : State) : (endStream s).win = s.win := by
  unfold endStream; split <;> rfl
@[simp] theorem endStream_adl (s : State) : (endStream s).adl = s.adl := by
  unfold endStream; split <;> rfl
@[simp] theorem endStream_zlf (s : State) : (endStream s).zlf = s.zlf := by
  unfold endStream; split <;> rfl
@[simp] theorem endStream_chk (s : State) : (endStream s).chk = s.chk := by
  unfold endStream; split <;> rfl
@[simp] theorem endStream_ihd (s : State) : (endStream s).ihd = s.ihd := by
  unfold endStream; split <;> rfl
@[simp] theorem endStream_flt (s : State) : (endStream s).flt = s.flt := by
  unfold endStream; split <;> rfl
@[simp] theorem endStream_fifo (s : State) : (endStream s).fifo = s.fifo := by
  unfold endStream; split <;> rfl
@[simp] theorem endStream_offer (s : State) : (endStream s).offer = s.offer := by
  unfold endStream; split <;> rfl
@[simp] theorem endStream_obReady (s : State) : (endStream s).obReady = s.obReady := by
  unfold endStream; split <;> rfl
@[simp] theorem endStream_slReady (s : State) : (endStream s).slReady = s.slReady := by
  unfold endStream; split <;> rfl
@[simp] theorem endStream_host (s : State) : (endStream s).host = s.host := by
  unfold endStream; split <;> rfl
@[simp] theorem endStream_log (s : State) : (endStream s).log = s.log := by
  unfold endStream; split <;> rfl

/-! ## `endBlock` leaves all but runState, phase -/

@[simp] theorem endBlock_mode (s : State) : (endBlock s).mode = s.mode := by
  unfold endBlock; split <;> simp
@[simp] theorem endBlock_pos (s : State) : (endBlock s).pos = s.pos := by
  unfold endBlock; split <;> simp
@[simp] theorem endBlock_perr (s : State) : (endBlock s).perr = s.perr := by
  unfold endBlock; split <;> simp
@[simp] theorem endBlock_zerr (s : State) : (endBlock s).zerr = s.zerr := by
  unfold endBlock; split <;> simp
@[simp] theorem endBlock_derr (s : State) : (endBlock s).derr = s.derr := by
  unfold endBlock; split <;> simp
@[simp] theorem endBlock_inEnd (s : State) : (endBlock s).inEnd = s.inEnd := by
  unfold endBlock; split <;> simp
@[simp] theorem endBlock_bsr (s : State) : (endBlock s).bsr = s.bsr := by
  unfold endBlock; split <;> simp
@[simp] theorem endBlock_huf (s : State) : (endBlock s).huf = s.huf := by
  unfold endBlock; split <;> simp
@[simp] theorem endBlock_inf (s : State) : (endBlock s).inf = s.inf := by
  unfold endBlock; split <;> simp
@[simp] theorem endBlock_win (s : State) : (endBlock s).win = s.win := by
  unfold endBlock; split <;> simp
@[simp] theorem endBlock_adl (s : State) : (endBlock s).adl = s.adl := by
  unfold endBlock; split <;> simp
@[simp] theorem endBlock_zlf (s : State) : (endBlock s).zlf = s.zlf := by
  unfold endBlock; split <;> simp
@[simp] theorem endBlock_chk (s : State) : (endBlock s).chk = s.chk := by
  unfold endBlock; split <;> simp
@[simp] theorem endBlock_ihd (s : State) : (endBlock s).ihd = s.ihd := by
  unfold endBlock; split <;> simp
@[simp] theorem endBlock_flt (s : State) : (endBlock s).flt = s.flt := by
  unfold endBlock; split <;> simp
@[simp] theorem endBlock_fifo (s : State) : (endBlock s).fifo = s.fifo := by
  unfold endBlock; split <;> simp
@[simp] theorem endBlock_offer (s : State) : (endBlock s).offer = s.offer := by
  unfold endBlock; split <;> simp
@[simp] theorem endBlock_obReady (s : State) : (endBlock s).obReady = s.obReady := by
  unfold endBlock; split <;> simp
@[simp] theorem endBlock_slReady (s : State) : (endBlock s).slReady = s.slReady := by
  unfold endBlock; split <;> simp
@[simp] theorem endBlock_host (s : State) : (endBlock s).host = s.host := by
  unfold endBlock; split <;> simp
@[simp] theorem endBlock_log (s : State) : (endBlock s).log = s.log := by
  unfold endBlock; split <;> simp

/-! ## `chunkHeader` leaves all but chk -/

@[simp] theorem chunkHeader_mode (len ctype : Word) (s : State) : (chunkHeader len ctype s).mode = s.mode := rfl
@[simp] theorem chunkHeader_runState (len ctype : Word) (s : State) : (chunkHeader len ctype s).runState = s.runState := rfl
@[simp] theorem chunkHeader_pos (len ctype : Word) (s : State) : (chunkHeader len ctype s).pos = s.pos := rfl
@[simp] theorem chunkHeader_perr (len ctype : Word) (s : State) : (chunkHeader len ctype s).perr = s.perr := rfl
@[simp] theorem chunkHeader_zerr (len ctype : Word) (s : State) : (chunkHeader len ctype s).zerr = s.zerr := rfl
@[simp] theorem chunkHeader_derr (len ctype : Word) (s : State) : (chunkHeader len ctype s).derr = s.derr := rfl
@[simp] theorem chunkHeader_inEnd (len ctype : Word) (s : State) : (chunkHeader len ctype s).inEnd = s.inEnd := rfl
@[simp] theorem chunkHeader_phase (len ctype : Word) (s : State) : (chunkHeader len ctype s).phase = s.phase := rfl
@[simp] theorem chunkHeader_bsr (len ctype : Word) (s : State) : (chunkHeader len ctype s).bsr = s.bsr := rfl
@[simp] theorem chunkHeader_huf (len ctype : Word) (s : State) : (chunkHeader len ctype s).huf = s.huf := rfl
@[simp] theorem chunkHeader_inf (len ctype : Word) (s : State) : (chunkHeader len ctype s).inf = s.inf := rfl
@[simp] theorem chunkHeader_win (len ctype : Word) (s : State) : (chunkHeader len ctype s).win = s.win := rfl
@[simp] theorem chunkHeader_adl (len ctype : Word) (s : State) : (chunkHeader len ctype s).adl = s.adl := rfl
@[simp] theorem chunkHeader_zlf (len ctype : Word) (s : State) : (chunkHeader len ctype s).zlf = s.zlf := rfl
@[simp] theorem chunkHeader_ihd (len ctype : Word) (s : State) : (chunkHeader len ctype s).ihd = s.ihd := rfl
@[simp] theorem chunkHeader_flt (len ctype : Word) (s : State) : (chunkHeader len ctype s).flt = s.flt := rfl
@[simp] theorem chunkHeader_fifo (len ctype : Word) (s : State) : (chunkHeader len ctype s).fifo = s.fifo := rfl
@[simp] theorem chunkHeader_offer (len ctype : Word) (s : State) : (chunkHeader len ctype s).offer = s.offer := rfl
@[simp] theorem chunkHeader_obReady (len ctype : Word) (s : State) : (chunkHeader len ctype s).obReady = s.obReady := rfl
@[simp] theorem chunkHeader_slReady (len ctype : Word) (s : State) : (chunkHeader len ctype s).slReady = s.slReady := rfl
@[simp] theorem chunkHeader_host (len ctype : Word) (s : State) : (chunkHeader len ctype s).host = s.host := rfl
@[simp] theorem chunkHeader_log (len ctype : Word) (s : State) : (chunkHeader len ctype s).log = s.log := rfl

/-! ## `acceptIhdr` leaves all but ihd, flt, offer, phase -/

@[simp] theorem acceptIhdr_mode (s : State) : (acceptIhdr s).mode = s.mode := rfl
@[simp] theorem acceptIhdr_runState (s : State) : (acceptIhdr s).runState = s.runState := rfl
@[simp] theorem acceptIhdr_pos (s : State) : (acceptIhdr s).pos = s.pos := rfl
@[simp] theorem acceptIhdr_perr (s : State) : (acceptIhdr s).perr = s.perr := rfl
@[simp] theorem acceptIhdr_zerr (s : State) : (acceptIhdr s).zerr = s.zerr := rfl
@[simp] theorem acceptIhdr_derr (s : State) : (acceptIhdr s).derr = s.derr := rfl
@[simp] theorem acceptIhdr_inEnd (s : State) : (acceptIhdr s).inEnd = s.inEnd := rfl
@[simp] theorem acceptIhdr_bsr (s : State) : (acceptIhdr s).bsr = s.bsr := rfl
@[simp] theorem acceptIhdr_huf (s : State) : (acceptIhdr s).huf = s.huf := rfl
@[simp] theorem acceptIhdr_inf (s : State) : (acceptIhdr s).inf = s.inf := rfl
@[simp] theorem acceptIhdr_win (s : State) : (acceptIhdr s).win = s.win := rfl
@[simp] theorem acceptIhdr_adl (s : State) : (acceptIhdr s).adl = s.adl := rfl
@[simp] theorem acceptIhdr_zlf (s : State) : (acceptIhdr s).zlf = s.zlf := rfl
@[simp] theorem acceptIhdr_chk (s : State) : (acceptIhdr s).chk = s.chk := rfl
@[simp] theorem acceptIhdr_fifo (s : State) : (acceptIhdr s).fifo = s.fifo := rfl
@[simp] theorem acceptIhdr_obReady (s : State) : (acceptIhdr s).obReady = s.obReady := rfl
@[simp] theorem acceptIhdr_slReady (s : State) : (acceptIhdr s).slReady = s.slReady := rfl
@[simp] theorem acceptIhdr_host (s : State) : (acceptIhdr s).host = s.host := rfl
@[simp] theorem acceptIhdr_log (s : State) : (acceptIhdr s).log = s.log := rfl

/-! ## `deliver` leaves all but offer, flt -/

@[simp] theorem deliver_mode (cur : List Byte) (s : State) : (deliver cur s).mode = s.mode := rfl
@[simp] theorem deliver_runState (cur : List Byte) (s : State) : (deliver cur s).runState = s.runState := rfl
@[simp] theorem deliver_pos (cur : List Byte) (s : State) : (deliver cur s).pos = s.pos := rfl
@[simp] theorem deliver_perr (cur : List Byte) (s : State) : (deliver cur s).perr = s.perr := rfl
@[simp] theorem deliver_zerr (cur : List Byte) (s : State) : (deliver cur s).zerr = s.zerr := rfl
@[simp] theorem deliver_derr (cur : List Byte) (s : State) : (deliver cur s).derr = s.derr := rfl
@[simp] theorem deliver_inEnd (cur : List Byte) (s : State) : (deliver cur s).inEnd = s.inEnd := rfl
@[simp] theorem deliver_phase (cur : List Byte) (s : State) : (deliver cur s).phase = s.phase := rfl
@[simp] theorem deliver_bsr (cur : List Byte) (s : State) : (deliver cur s).bsr = s.bsr := rfl
@[simp] theorem deliver_huf (cur : List Byte) (s : State) : (deliver cur s).huf = s.huf := rfl
@[simp] theorem deliver_inf (cur : List Byte) (s : State) : (deliver cur s).inf = s.inf := rfl
@[simp] theorem deliver_win (cur : List Byte) (s : State) : (deliver cur s).win = s.win := rfl
@[simp] theorem deliver_adl (cur : List Byte) (s : State) : (deliver cur s).adl = s.adl := rfl
@[simp] theorem deliver_zlf (cur : List Byte) (s : State) : (deliver cur s).zlf = s.zlf := rfl
@[simp] theorem deliver_chk (cur : List Byte) (s : State) : (deliver cur s).chk = s.chk := rfl
@[simp] theorem deliver_ihd (cur : List Byte) (s : State) : (deliver cur s).ihd = s.ihd := rfl
@[simp] theorem deliver_fifo (cur : List Byte) (s : State) : (deliver cur s).fifo = s.fifo := rfl
@[simp] theorem deliver_obReady (cur : List Byte) (s : State) : (deliver cur s).obReady = s.obReady := rfl
@[simp] theorem deliver_slReady (cur : List Byte) (s : State) : (deliver cur s).slReady = s.slReady := rfl
@[simp] theorem deliver_host (cur : List Byte) (s : State) : (deliver cur s).host = s.host := rfl
@[simp] theorem deliver_log (cur : List Byte) (s : State) : (deliver cur s).log = s.log := rfl

/-! ## `advanceScanline` leaves all but flt -/

@[simp] theorem advanceScanline_mode (s : State) : (advanceScanline s).mode = s.mode := rfl
@[simp] theorem advanceScanline_runState (s : State) : (advanceScanline s).runState = s.runState := rfl
@[simp] theorem advanceScanline_pos (s : State) : (advanceScanline s).pos = s.pos := rfl
@[simp] theorem advanceScanline_perr (s : State) : (advanceScanline s).perr = s.perr := rfl
@[simp] theorem advanceScanline_zerr (s : State) : (advanceScanline s).zerr = s.zerr := rfl
@[simp] theorem advanceScanline_derr (s : State) : (advanceScanline s).derr = s.derr := rfl
@[simp] theorem advanceScanline_inEnd (s : State) : (advanceScanline s).inEnd = s.inEnd := rfl
@[simp] theorem advanceScanline_phase (s : State) : (advanceScanline s).phase = s.phase := rfl
@[simp] theorem advanceScanline_bsr (s : State) : (advanceScanline s).bsr = s.bsr := rfl
@[simp] theorem advanceScanline_huf (s : State) : (advanceScanline s).huf = s.huf := rfl
@[simp] theorem advanceScanline_inf (s : State) : (advanceScanline s).inf = s.inf := rfl
@[simp] theorem advanceScanline_win (s : State) : (advanceScanline s).win = s.win := rfl
@[simp] theorem advanceScanline_adl (s : State) : (advanceScanline s).adl = s.adl := rfl
@[simp] theorem advanceScanline_zlf (s : State) : (advanceScanline s).zlf = s.zlf := rfl
@[simp] theorem advanceScanline_chk (s : State) : (advanceScanline s).chk = s.chk := rfl
@[simp] theorem advanceScanline_ihd (s : State) : (advanceScanline s).ihd = s.ihd := rfl
@[simp] theorem advanceScanline_fifo (s : State) : (advanceScanline s).fifo = s.fifo := rfl
@[simp] theorem advanceScanline_offer (s : State) : (advanceScanline s).offer = s.offer := rfl
@[simp] theorem advanceScanline_obReady (s : State) : (advanceScanline s).obReady = s.obReady := rfl
@[simp] theorem advanceScanline_slReady (s : State) : (advanceScanline s).slReady = s.slReady := rfl
@[simp] theorem advanceScanline_host (s : State) : (advanceScanline s).host = s.host := rfl
@[simp] theorem advanceScanline_log (s : State) : (advanceScanline s).log = s.log := rfl

/-! ## `accept` leaves all but flt, offer, log -/

@[simp] theorem accept_mode (x : OutXfer) (rest : List OutXfer) (s : State) : (accept x rest s).mode = s.mode := by
  unfold accept; dsimp only; split <;> rfl
@[simp] theorem accept_runState (x : OutXfer) (rest : List OutXfer) (s : State) : (accept x rest s).runState = s.runState := by
  unfold accept; dsimp only; split <;> rfl
@[simp] theorem accept_pos (x : OutXfer) (rest : List OutXfer) (s : State) : (accept x rest s).pos = s.pos := by
  unfold accept; dsimp only; split <;> rfl
@[simp] theorem accept_perr (x : OutXfer) (rest : List OutXfer) (s : State) : (accept x rest s).perr = s.perr := by
  unfold accept; dsimp only; split <;> rfl
@[simp] theorem accept_zerr (x : OutXfer) (rest : List OutXfer) (s : State) : (accept x rest s).zerr = s.zerr := by
  unfold accept; dsimp only; split <;> rfl
@[simp] theorem accept_derr (x : OutXfer) (rest : List OutXfer) (s : State) : (accept x rest s).derr = s.derr := by
  unfold accept; dsimp only; split <;> rfl
@[simp] theorem accept_inEnd (x : OutXfer) (rest : List OutXfer) (s : State) : (accept x rest s).inEnd = s.inEnd := by
  unfold accept; dsimp only; split <;> rfl
@[simp] theorem accept_phase (x : OutXfer) (rest : List OutXfer) (s : State) : (accept x rest s).phase = s.phase := by
  unfold accept; dsimp only; split <;> rfl
@[simp] theorem accept_bsr (x : OutXfer) (rest : List OutXfer) (s : State) : (accept x rest s).bsr = s.bsr := by
  unfold accept; dsimp only; split <;> rfl
@[simp] theorem accept_huf (x : OutXfer) (rest : List OutXfer) (s : State) : (accept x rest s).huf = s.huf := by
  unfold accept; dsimp only; split <;> rfl
@[simp] theorem accept_inf (x : OutXfer) (rest : List OutXfer) (s : State) : (accept x rest s).inf = s.inf := by
  unfold accept; dsimp only; split <;> rfl
@[simp] theorem accept_win (x : OutXfer) (rest : List OutXfer) (s : State) : (accept x rest s).win = s.win := by
  unfold accept; dsimp only; split <;> rfl
@[simp] theorem accept_adl (x : OutXfer) (rest : List OutXfer) (s : State) : (accept x rest s).adl = s.adl := by
  unfold accept; dsimp only; split <;> rfl
@[simp] theorem accept_zlf (x : OutXfer) (rest : List OutXfer) (s : State) : (accept x rest s).zlf = s.zlf := by
  unfold accept; dsimp only; split <;> rfl
@[simp] theorem accept_chk (x : OutXfer) (rest : List OutXfer) (s : State) : (accept x rest s).chk = s.chk := by
  unfold accept; dsimp only; split <;> rfl
@[simp] theorem accept_ihd (x : OutXfer) (rest : List OutXfer) (s : State) : (accept x rest s).ihd = s.ihd := by
  unfold accept; dsimp only; split <;> rfl
@[simp] theorem accept_fifo (x : OutXfer) (rest : List OutXfer) (s : State) : (accept x rest s).fifo = s.fifo := by
  unfold accept; dsimp only; split <;> rfl
@[simp] theorem accept_obReady (x : OutXfer) (rest : List OutXfer) (s : State) : (accept x rest s).obReady = s.obReady := by
  unfold accept; dsimp only; split <;> rfl
@[simp] theorem accept_slReady (x : OutXfer) (rest : List OutXfer) (s : State) : (accept x rest s).slReady = s.slReady := by
  unfold accept; dsimp only; split <;> rfl
@[simp] theorem accept_host (x : OutXfer) (rest : List OutXfer) (s : State) : (accept x rest s).host = s.host := by
  unfold accept; dsimp only; split <;> rfl

/-! ## `drain` leaves all but flt, offer, log -/

@[simp] theorem drain_mode (x : OutXfer) (rest : List OutXfer) (s : State) : (drain x rest s).mode = s.mode := by
  unfold drain; split <;> simp
@[simp] theorem drain_runState (x : OutXfer) (rest : List OutXfer) (s : State) : (drain x rest s).runState = s.runState := by
  unfold drain; split <;> simp
@[simp] theorem drain_pos (x : OutXfer) (rest : List OutXfer) (s : State) : (drain x rest s).pos = s.pos := by
  unfold drain; split <;> simp
@[simp] theorem drain_perr (x : OutXfer) (rest : List OutXfer) (s : State) : (drain x rest s).perr = s.perr := by
  unfold drain; split <;> simp
@[simp] theorem drain_zerr (x : OutXfer) (rest : List OutXfer) (s : State) : (drain x rest s).zerr = s.zerr := by
  unfold drain; split <;> simp
@[simp] theorem drain_derr (x : OutXfer) (rest : List OutXfer) (s : State) : (drain x rest s).derr = s.derr := by
  unfold drain; split <;> simp
@[simp] theorem drain_inEnd (x : OutXfer) (rest : List OutXfer) (s : State) : (drain x rest s).inEnd = s.inEnd := by
  unfold drain; split <;> simp
@[simp] theorem drain_phase (x : OutXfer) (rest : List OutXfer) (s : State) : (drain x rest s).phase = s.phase := by
  unfold drain; split <;> simp
@[simp] theorem drain_bsr (x : OutXfer) (rest : List OutXfer) (s : State) : (drain x rest s).bsr = s.bsr := by
  unfold drain; split <;> simp
@[simp] theorem drain_huf (x : OutXfer) (rest : List OutXfer) (s : State) : (drain x rest s).huf = s.huf := by
  unfold drain; split <;> simp
@[simp] theorem drain_inf (x : OutXfer) (rest : List OutXfer) (s : State) : (drain x rest s).inf = s.inf := by
  unfold drain; split <;> simp
@[simp] theorem drain_win (x : OutXfer) (rest : List OutXfer) (s : State) : (drain x rest s).win = s.win := by
  unfold drain; split <;> simp
@[simp] theorem drain_adl (x : OutXfer) (rest : List OutXfer) (s : State) : (drain x rest s).adl = s.adl := by
  unfold drain; split <;> simp
@[simp] theorem drain_zlf (x : OutXfer) (rest : List OutXfer) (s : State) : (drain x rest s).zlf = s.zlf := by
  unfold drain; split <;> simp
@[simp] theorem drain_chk (x : OutXfer) (rest : List OutXfer) (s : State) : (drain x rest s).chk = s.chk := by
  unfold drain; split <;> simp
@[simp] theorem drain_ihd (x : OutXfer) (rest : List OutXfer) (s : State) : (drain x rest s).ihd = s.ihd := by
  unfold drain; split <;> simp
@[simp] theorem drain_fifo (x : OutXfer) (rest : List OutXfer) (s : State) : (drain x rest s).fifo = s.fifo := by
  unfold drain; split <;> simp
@[simp] theorem drain_obReady (x : OutXfer) (rest : List OutXfer) (s : State) : (drain x rest s).obReady = s.obReady := by
  unfold drain; split <;> simp
@[simp] theorem drain_slReady (x : OutXfer) (rest : List OutXfer) (s : State) : (drain x rest s).slReady = s.slReady := by
  unfold drain; split <;> simp
@[simp] theorem drain_host (x : OutXfer) (rest : List OutXfer) (s : State) : (drain x rest s).host = s.host := by
  unfold drain; split <;> simp

/-! ## `endCodeLen` leaves all but huf, phase -/

@[simp] theorem endCodeLen_mode (s : State) : (endCodeLen s).mode = s.mode := by
  unfold endCodeLen; split <;> rfl
@[simp] theorem endCodeLen_runState (s : State) : (endCodeLen s).runState = s.runState := by
  unfold endCodeLen; split <;> rfl
@[simp] theorem endCodeLen_pos (s : State) : (endCodeLen s).pos = s.pos := by
  unfold endCodeLen; split <;> rfl
@[simp] theorem endCodeLen_perr (s : State) : (endCodeLen s).perr = s.perr := by
  unfold endCodeLen; split <;> rfl
@[simp] theorem endCodeLen_zerr (s : State) : (endCodeLen s).zerr = s.zerr := by
  unfold endCodeLen; split <;> rfl
@[simp] theorem endCodeLen_derr (s : State) : (endCodeLen s).derr = s.derr := by
  unfold endCodeLen; split <;> rfl
@[simp] theorem endCodeLen_inEnd (s : State) : (endCodeLen s).inEnd = s.inEnd := by
  unfold endCodeLen; split <;> rfl
@[simp] theorem endCodeLen_bsr (s : State) : (endCodeLen s).bsr = s.bsr := by
  unfold endCodeLen; split <;> rfl
@[simp] theorem endCodeLen_inf (s : State) : (endCodeLen s).inf = s.inf := by
  unfold endCodeLen; split <;> rfl
@[simp] theorem endCodeLen_win (s : State) : (endCodeLen s).win = s.win := by
  unfold endCodeLen; split <;> rfl
@[simp] theorem endCodeLen_adl (s : State) : (endCodeLen s).adl = s.adl := by
  unfold endCodeLen; split <;> rfl
@[simp] theorem endCodeLen_zlf (s : State) : (endCodeLen s).zlf = s.zlf := by
  unfold endCodeLen; split <;> rfl
@[simp] theorem endCodeLen_chk (s : State) : (endCodeLen s).chk = s.chk := by
  unfold endCodeLen; split <;> rfl
@[simp] theorem endCodeLen_ihd (s : State) : (endCodeLen s).ihd = s.ihd := by
  unfold endCodeLen; split <;> rfl
@[simp] theorem endCodeLen_flt (s : State) : (endCodeLen s).flt = s.flt := by
  unfold endCodeLen; split <;> rfl
@[simp] theorem endCodeLen_fifo (s : State) : (endCodeLen s).fifo = s.fifo := by
  unfold endCodeLen; split <;> rfl
@[simp] theorem endCodeLen_offer (s : State) : (endCodeLen s).offer = s.offer := by
  unfold endCodeLen; split <;> rfl
@[simp] theorem endCodeLen_obReady (s : State) : (endCodeLen s).obReady = s.obReady := by
  unfold endCodeLen; split <;> rfl
@[simp] theorem endCodeLen_slReady (s : State) : (endCodeLen s).slReady = s.slReady := by
  unfold endCodeLen; split <;> rfl
@[simp] theorem endCodeLen_host (s : State) : (endCodeLen s).host = s.host := by
  unfold endCodeLen; split <;> rfl
@[simp] theorem endCodeLen_log (s : State) : (endCodeLen s).log = s.log := by
  unfold endCodeLen; split <;> rfl

/-! ## `appendLens` leaves all but huf, phase, inf -/

@[simp] theorem appendLens_mode (ls : List (BitVec 4)) (s : State) : (appendLens ls s).mode = s.mode := by
  unfold appendLens; simp
@[simp] theorem appendLens_runState (ls : List (BitVec 4)) (s : State) : (appendLens ls s).runState = s.runState := by
  unfold appendLens; simp
@[simp] theorem appendLens_pos (ls : List (BitVec 4)) (s : State) : (appendLens ls s).pos = s.pos := by
  unfold appendLens; simp
@[simp] theorem appendLens_perr (ls : List (BitVec 4)) (s : State) : (appendLens ls s).perr = s.perr := by
  unfold appendLens; simp
@[simp] theorem appendLens_zerr (ls : List (BitVec 4)) (s : State) : (appendLens ls s).zerr = s.zerr := by
  unfold appendLens; simp
@[simp] theorem appendLens_derr (ls : List (BitVec 4)) (s : State) : (appendLens ls s).derr = s.derr := by
  unfold appendLens; simp
@[simp] theorem appendLens_inEnd (ls : List (BitVec 4)) (s : State) : (appendLens ls s).inEnd = s.inEnd := by
  unfold appendLens; simp
@[simp] theorem appendLens_bsr (ls : List (BitVec 4)) (s : State) : (appendLens ls s).bsr = s.bsr := by
  unfold appendLens; simp
@[simp] theorem appendLens_win (ls : List (BitVec 4)) (s : State) : (appendLens ls s).win = s.win := by
  unfold appendLens; simp
@[simp] theorem appendLens_adl (ls : List (BitVec 4)) (s : State) : (appendLens ls s).adl = s.adl := by
  unfold appendLens; simp
@[simp] theorem appendLens_zlf (ls : List (BitVec 4)) (s : State) : (appendLens ls s).zlf = s.zlf := by
  unfold appendLens; simp
@[simp] theorem appendLens_chk (ls : List (BitVec 4)) (s : State) : (appendLens ls s).chk = s.chk := by
  unfold appendLens; simp
@[simp] theorem appendLens_ihd (ls : List (BitVec 4)) (s : State) : (appendLens ls s).ihd = s.ihd := by
  unfold appendLens; simp
@[simp] theorem appendLens_flt (ls : List (BitVec 4)) (s : State) : (appendLens ls s).flt = s.flt := by
  unfold appendLens; simp
@[simp] theorem appendLens_fifo (ls : List (BitVec 4)) (s : State) : (appendLens ls s).fifo = s.fifo := by
  unfold appendLens; simp
@[simp] theorem appendLens_offer (ls : List (BitVec 4)) (s : State) : (appendLens ls s).offer = s.offer := by
  unfold appendLens; simp
@[simp] theorem appendLens_obReady (ls : List (BitVec 4)) (s : State) : (appendLens ls s).obReady = s.obReady := by
  unfold appendLens; simp
@[simp] theorem appendLens_slReady (ls : List (BitVec 4)) (s : State) : (appendLens ls s).slReady = s.slReady := by
  unfold appendLens; simp
@[simp] theorem appendLens_host (ls : List (BitVec 4)) (s : State) : (appendLens ls s).host = s.host := by
  unfold appendLens; simp
@[simp] theorem appendLens_log (ls : List (BitVec 4)) (s : State) : (appendLens ls s).log = s.log := by
  unfold appendLens; simp

/-! ## What they change -/

@[simp] theorem latch_runState (k : ErrKind) (s : State) : (latch k s).runState = .done := by
  unfold latch; split <;> (try split) <;> rfl

@[simp] theorem succeed_runState (s : State) : (succeed s).runState = .done := rfl

@[simp] theorem emit_win (b : Byte) (s : State) : (emit b s).win = s.win.push b := by
  unfold emit; split <;> simp

theorem emit_adl (b : Byte) (s : State) :
    (emit b s).adl = if s.mode = .rawDeflate then s.adl else adlerUpdate b s.adl := by
  unfold emit; split <;> simp_all

theorem emit_offer (b : Byte) (s : State) :
    (emit b s).offer = if s.mode = .png then s.offer else s.offer ++ [.byte b] := by
  unfold emit; split <;> simp_all

theorem emit_flt (b : Byte) (s : State) :
    (emit b s).flt = if s.mode = .png ∧ s.flt.ferr = false then
      { s.flt with pend := s.flt.pend ++ [b] } else s.flt := by
  unfold emit fltPush; split <;> (try split) <;> simp_all

@[simp] theorem appendLens_inf (ls : List (BitVec 4)) (s : State) :
    (appendLens ls s).inf = { s.inf with lens := s.inf.lens ++ ls } := by
  unfold appendLens; simp

@[simp] theorem accept_offer (x : OutXfer) (rest : List OutXfer) (s : State) : (accept x rest s).offer = rest := by
  unfold accept; dsimp only; split <;> rfl

@[simp] theorem accept_log (x : OutXfer) (rest : List OutXfer) (s : State) :
    (accept x rest s).log = s.log ++ [x] := by
  unfold accept; dsimp only; split <;> rfl

theorem accept_flt (x : OutXfer) (rest : List OutXfer) (s : State) :
    (accept x rest s).flt = if x.endsScanline then
      { s.flt with pend := [], prior := s.flt.cur, row := s.flt.row + 1#32 } else s.flt := by
  unfold accept; dsimp only; split <;> rfl

theorem endStream_runState (s : State) :
    (endStream s).runState = if s.mode = .rawDeflate then .done else s.runState := by
  unfold endStream; split <;> simp_all

theorem endStream_phase (s : State) :
    (endStream s).phase = if s.mode = .rawDeflate then s.phase else .trailer := by
  unfold endStream; split <;> simp_all [succeed]

theorem endBlock_runState (s : State) :
    (endBlock s).runState = if s.inf.bfinal = true ∧ s.mode = .rawDeflate then .done else s.runState := by
  unfold endBlock; split <;> simp_all [endStream_runState]

theorem endBlock_phase (s : State) :
    (endBlock s).phase =
      if s.inf.bfinal = false then .blockHdr else if s.mode = .rawDeflate then s.phase else .trailer := by
  unfold endBlock; split <;> simp_all [endStream_phase]

/-! ## The test of the first chunk (R322) -/

theorem notFirst_first {s : State} (k : Res) (h : s.phase = .firstChunk) :
    notFirst s k = raise (.png .invalidFirstChunk) s := if_pos h

theorem notFirst_later {s : State} (k : Res) (h : s.phase ≠ .firstChunk) : notFirst s k = k := if_neg h

/-! ## The window -/

@[simp] theorem push_mem (b : Byte) (w : Win) : (w.push b).mem = Memory.write w.mem w.wr.toNat b := rfl
@[simp] theorem push_wr (b : Byte) (w : Win) : (w.push b).wr = w.wr + 1#15 := rfl
@[simp] theorem push_fill (b : Byte) (w : Win) : (w.push b).fill = min (w.fill + 1) Config.winSize := rfl
@[simp] theorem push_total (b : Byte) (w : Win) : (w.push b).total = w.total + 1 := rfl

end Sys2Proof.Machine
end

