-- ==== Sys2Proof/Laws/Reader.lean ====
section
/-! SUPPORT. What a read can do, said once: a decode is a chain of the reader's own bit and byte reads
(`decode_rel`), two readers that answer alike decode alike (`decode_follows_bits`, `decode_follows_bytes`), and a
read of the machine consumes input and writes `BSR` and `CHK`, nothing else
(`fetch_consumes`). -/

namespace Sys2Proof

/-! ## Taking reads apart -/

theorem Rd.bind_got {σ α β : Type} {r : Rd σ α} {f : α → σ → Rd σ β} {b : β} {t : σ}
    (h : r.bind f = .got b t) : ∃ a s, r = .got a s ∧ f a s = .got b t := by
  cases r with
  | got a s => exact ⟨a, s, rfl, h⟩
  | eof => simp [Rd.bind] at h
  | corrupt => simp [Rd.bind] at h
  | wait => simp [Rd.bind] at h

theorem Rd.map_got {σ α β : Type} {r : Rd σ α} {f : α → β} {b : β} {t : σ}
    (h : r.map f = .got b t) : ∃ a, r = .got a t ∧ f a = b := by
  obtain ⟨a, s, hr, hf⟩ := Rd.bind_got h
  cases hf
  exact ⟨a, hr, rfl⟩

@[simp] theorem Rd.bind_of_got {σ α β : Type} (a : α) (s : σ) (f : α → σ → Rd σ β) :
    (Rd.got a s).bind f = f a s := rfl

@[simp] theorem Rd.map_of_got {σ α β : Type} (a : α) (s : σ) (f : α → β) :
    (Rd.got a s : Rd σ α).map f = .got (f a) s := rfl

/-! ## A decode is a chain of reads -/

/-- A relation that every single read of `R` respects and that can be chained. -/
structure Reader.Respects {σ : Type} (R : Reader σ) (P : σ → σ → Prop) : Prop where
  refl : ∀ s, P s s
  trans : ∀ {a b c}, P a b → P b c → P a c
  bits : ∀ {n s v t}, n ≤ 16 → R.bits n s = .got v t → P s t
  byte : ∀ {s b t}, R.byte s = .got b t → P s t

variable {σ : Type} {R : Reader σ} {P : σ → σ → Prop}

theorem readBE_rel (hP : R.Respects P) : ∀ {n v s w t}, readBE R n v s = .got w t → P s t := by
  intro n
  induction n with
  | zero => intro v s w t h; simp only [readBE, Rd.got.injEq] at h; rw [h.2]; exact hP.refl _
  | succ n ih =>
    intro v s w t h
    obtain ⟨b, s', hb, h⟩ := Rd.bind_got h
    exact hP.trans (hP.byte hb) (ih h)

theorem huffBits_rel (hP : R.Respects P) : ∀ {n c s w t}, huffBits R n c s = .got w t → P s t := by
  intro n
  induction n with
  | zero => intro c s w t h; simp only [huffBits, Rd.got.injEq] at h; rw [h.2]; exact hP.refl _
  | succ n ih =>
    intro c s w t h
    obtain ⟨b, s', hb, h⟩ := Rd.bind_got h
    exact hP.trans (hP.bits (by omega) hb) (ih h)

theorem decodeLoop_rel (hP : R.Respects P) {T : HufTable} :
    ∀ {fuel L c s i t}, decodeLoop R T fuel L c s = .got i t → P s t := by
  intro fuel
  induction fuel with
  | zero =>
    intro L c s i t h
    unfold decodeLoop at h
    cases hl : T.lookup L c with
    | none => simp [hl] at h
    | some j => simp only [hl, Rd.got.injEq] at h; rw [h.2]; exact hP.refl _
  | succ n ih =>
    intro L c s i t h
    unfold decodeLoop at h
    cases hl : T.lookup L c with
    | none =>
      simp only [hl] at h
      obtain ⟨b, s', hb, h⟩ := Rd.bind_got h
      exact hP.trans (hP.bits (by omega) hb) (ih h)
    | some j => simp only [hl, Rd.got.injEq] at h; rw [h.2]; exact hP.refl _

theorem decodeSymbol_rel (hP : R.Respects P) {T : HufTable} {s : σ} {i : Nat} {t : σ}
    (h : decodeSymbol R T s = .got i t) : P s t := by
  obtain ⟨c, s', hc, h⟩ := Rd.bind_got h
  exact hP.trans (huffBits_rel hP hc) (decodeLoop_rel hP h)

theorem readCll_rel (hP : R.Respects P) : ∀ {n s l t}, readCll R n s = .got l t → P s t := by
  intro n
  induction n with
  | zero => intro s l t h; simp only [readCll, Rd.got.injEq] at h; rw [h.2]; exact hP.refl _
  | succ n ih =>
    intro s l t h
    obtain ⟨v, s', hv, h⟩ := Rd.bind_got h
    obtain ⟨vs, h, -⟩ := Rd.map_got h
    exact hP.trans (hP.bits (by omega) hv) (ih h)

theorem lengthExtra_le (i : Nat) : lengthExtra.getD i 0 ≤ 16 := by
  by_cases h : i < 29
  · interval_cases i <;> decide
  · simp only [lengthExtra, List.getD]
    rw [List.getElem?_eq_none (by simp; omega)]; simp

theorem distExtra_le (i : Nat) : distExtra.getD i 0 ≤ 16 := by
  by_cases h : i < 30
  · interval_cases i <;> decide
  · simp only [distExtra, List.getD]
    rw [List.getElem?_eq_none (by simp; omega)]; simp

/-- A successful decode moves the source along any relation that every single read respects. -/
theorem decode_rel (hP : R.Respects P) {c : Ctx} {f : Fmt} {s : σ} {i : Instr} {t : σ}
    (h : decode R c f s = .got i t) : P s t := by
  cases f with
  | bh =>
    obtain ⟨a, s1, h1, h⟩ := Rd.bind_got h
    obtain ⟨b, h2, -⟩ := Rd.map_got h
    exact hP.trans (hP.bits (by omega) h1) (hP.bits (by omega) h2)
  | sh =>
    obtain ⟨a, s1, h1, h⟩ := Rd.bind_got h
    obtain ⟨b, h2, -⟩ := Rd.map_got h
    exact hP.trans (hP.bits (by omega) h1) (hP.bits (by omega) h2)
  | dh =>
    obtain ⟨a, s1, h1, h⟩ := Rd.bind_got h
    obtain ⟨b, s2, h2, h⟩ := Rd.bind_got h
    obtain ⟨d, h3, -⟩ := Rd.map_got h
    exact hP.trans (hP.bits (by omega) h1) (hP.trans (hP.bits (by omega) h2) (hP.bits (by omega) h3))
  | cll =>
    obtain ⟨l, h1, -⟩ := Rd.map_got h
    exact readCll_rel hP h1
  | cls =>
    obtain ⟨sym, s1, h1, h⟩ := Rd.bind_got h
    refine hP.trans (decodeSymbol_rel hP h1) ?_
    split at h
    · cases h; exact hP.refl _
    · split at h
      · split at h
        · cases h; exact hP.refl _
        · obtain ⟨e, h2, -⟩ := Rd.map_got h; exact hP.bits (by omega) h2
      · split at h
        · obtain ⟨e, h2, -⟩ := Rd.map_got h; exact hP.bits (by omega) h2
        · split at h
          · obtain ⟨e, h2, -⟩ := Rd.map_got h; exact hP.bits (by omega) h2
          · cases h
  | lls =>
    obtain ⟨sym, s1, h1, h⟩ := Rd.bind_got h
    refine hP.trans (decodeSymbol_rel hP h1) ?_
    split at h
    · cases h; exact hP.refl _
    · split at h
      · cases h; exact hP.refl _
      · split at h
        · obtain ⟨e, h2, -⟩ := Rd.map_got h; exact hP.bits (lengthExtra_le _) h2
        · split at h
          · cases h; exact hP.refl _
          · cases h
  | ds =>
    obtain ⟨sym, s1, h1, h⟩ := Rd.bind_got h
    refine hP.trans (decodeSymbol_rel hP h1) ?_
    split at h
    · obtain ⟨e, h2, -⟩ := Rd.map_got h; exact hP.bits (distExtra_le _) h2
    · split at h
      · cases h; exact hP.refl _
      · cases h
  | zh =>
    obtain ⟨a, s1, h1, h⟩ := Rd.bind_got h
    obtain ⟨b, h2, -⟩ := Rd.map_got h
    exact hP.trans (hP.byte h1) (hP.byte h2)
  | zd => obtain ⟨a, h1, -⟩ := Rd.map_got h; exact readBE_rel hP h1
  | zt => obtain ⟨a, h1, -⟩ := Rd.map_got h; exact readBE_rel hP h1
  | sig => obtain ⟨a, h1, -⟩ := Rd.map_got h; exact readBE_rel hP h1
  | ch =>
    obtain ⟨a, s1, h1, h⟩ := Rd.bind_got h
    obtain ⟨b, h2, -⟩ := Rd.map_got h
    exact hP.trans (readBE_rel hP h1) (readBE_rel hP h2)
  | ih =>
    obtain ⟨a, s1, h1, h⟩ := Rd.bind_got h
    obtain ⟨b, s2, h2, h⟩ := Rd.bind_got h
    obtain ⟨_, s3, h3, h⟩ := Rd.bind_got h
    obtain ⟨_, s4, h4, h⟩ := Rd.bind_got h
    obtain ⟨_, s5, h5, h⟩ := Rd.bind_got h
    obtain ⟨_, s6, h6, h⟩ := Rd.bind_got h
    obtain ⟨_, h7, -⟩ := Rd.map_got h
    exact hP.trans (readBE_rel hP h1) (hP.trans (readBE_rel hP h2) (hP.trans (hP.byte h3)
      (hP.trans (hP.byte h4) (hP.trans (hP.byte h5) (hP.trans (hP.byte h6) (hP.byte h7))))))
  | fs => obtain ⟨a, h1, -⟩ := Rd.map_got h; exact hP.byte h1

theorem readBE_lt : ∀ {n v s w t}, readBE R n v s = .got w t → w < (v + 1) * 256 ^ n := by
  intro n
  induction n with
  | zero => intro v s w t h; simp only [readBE, Rd.got.injEq] at h; omega
  | succ n ih =>
    intro v s w t h
    obtain ⟨b, s', -, h⟩ := Rd.bind_got h
    have h1 := ih h
    have hb : b.toNat < 256 := b.isLt
    calc w < (v * 256 + b.toNat + 1) * 256 ^ n := h1
      _ ≤ ((v + 1) * 256) * 256 ^ n := Nat.mul_le_mul_right _ (by omega)
      _ = (v + 1) * 256 ^ (n + 1) := by rw [pow_succ, mul_assoc, Nat.mul_comm 256]

/-! ## One reader decodes as another does -/

/-- Reads of two readers that answer alike and stay related. -/
def Rd.Follows {σ τ α : Type} (M : σ → τ → Prop) (r : Rd σ α) (q : Rd τ α) : Prop :=
  ∀ v s, r = .got v s → ∃ t, q = .got v t ∧ M s t

section Follows

variable {σ τ α β : Type} {M : σ → τ → Prop} {R : Reader σ} {Q : Reader τ}

theorem Rd.Follows.bind {r : Rd σ α} {q : Rd τ α} {f : α → σ → Rd σ β} {g : α → τ → Rd τ β}
    (h : Rd.Follows M r q) (hf : ∀ a s t, M s t → Rd.Follows M (f a s) (g a t)) :
    Rd.Follows M (r.bind f) (q.bind g) := by
  intro v s hv
  obtain ⟨a, s', hr, hv⟩ := Rd.bind_got hv
  obtain ⟨t', hq, hm⟩ := h a s' hr
  obtain ⟨t, ht, hm⟩ := hf a s' t' hm v s hv
  exact ⟨t, by rw [hq]; exact ht, hm⟩

theorem Rd.Follows.got {a : α} {s : σ} {t : τ} (h : M s t) : Rd.Follows M (.got a s) (.got a t) := by
  intro v s' hv; cases hv; exact ⟨t, rfl, h⟩

theorem Rd.Follows.map {r : Rd σ α} {q : Rd τ α} {f : α → β} (h : Rd.Follows M r q) :
    Rd.Follows M (r.map f) (q.map f) := h.bind fun _ _ _ hm => .got hm

theorem Rd.Follows.corrupt : Rd.Follows M (.corrupt : Rd σ α) (.corrupt : Rd τ α) := by intro v s hv; cases hv

theorem decodeLoop_follows (hb : ∀ n s t, n ≤ 16 → M s t → Rd.Follows M (R.bits n s) (Q.bits n t)) (T : HufTable) :
    ∀ fuel L c s t, M s t → Rd.Follows M (decodeLoop R T fuel L c s) (decodeLoop Q T fuel L c t) := by
  intro fuel
  induction fuel with
  | zero =>
    intro L c s t hm
    unfold decodeLoop
    cases T.lookup L c with
    | none => exact .corrupt
    | some i => exact .got hm
  | succ n ih =>
    intro L c s t hm
    unfold decodeLoop
    cases T.lookup L c with
    | none => exact (hb 1 s t (by omega) hm).bind fun b s' t' hm' => ih _ _ _ _ hm'
    | some i => exact .got hm

theorem huffBits_follows (hb : ∀ n s t, n ≤ 16 → M s t → Rd.Follows M (R.bits n s) (Q.bits n t)) :
    ∀ n c s t, M s t → Rd.Follows M (huffBits R n c s) (huffBits Q n c t)
  | 0, _, _, _, hm => .got hm
  | n + 1, c, s, t, hm => (hb 1 s t (by omega) hm).bind fun _ s' t' hm' => huffBits_follows hb n _ s' t' hm'

theorem readCll_follows (hb : ∀ n s t, n ≤ 16 → M s t → Rd.Follows M (R.bits n s) (Q.bits n t)) :
    ∀ n s t, M s t → Rd.Follows M (readCll R n s) (readCll Q n t)
  | 0, _, _, hm => .got hm
  | n + 1, s, t, hm => (hb 3 s t (by omega) hm).bind fun _ s' t' hm' => (readCll_follows hb n s' t' hm').map

theorem readBE_follows (hb : ∀ s t, M s t → Rd.Follows M (R.byte s) (Q.byte t)) :
    ∀ n v s t, M s t → Rd.Follows M (readBE R n v s) (readBE Q n v t)
  | 0, _, _, _, hm => .got hm
  | n + 1, _, s, t, hm => (hb s t hm).bind fun _ s' t' hm' => readBE_follows hb n _ s' t' hm'

/-- The DEFLATE formats are read in bits only: where the bit reads of one reader follow those of another, so do
its decodes. -/
theorem decode_follows_bits (hb : ∀ n s t, n ≤ 16 → M s t → Rd.Follows M (R.bits n s) (Q.bits n t))
    {c : Ctx} {f : Fmt} (hf : f ∈ [Fmt.bh, .sh, .dh, .cll, .cls, .lls, .ds]) {s : σ} {t : τ} (hm : M s t) :
    Rd.Follows M (decode R c f s) (decode Q c f t) := by
  have hsym : ∀ T, Rd.Follows M (decodeSymbol R T s) (decodeSymbol Q T t) := fun T =>
    (huffBits_follows hb _ _ _ _ hm).bind fun _ _ _ h => decodeLoop_follows hb T _ _ _ _ _ h
  have b : ∀ {n s t}, n ≤ 16 → M s t → Rd.Follows M (R.bits n s) (Q.bits n t) := fun h => hb _ _ _ h
  fin_cases hf
  · exact (b (by omega) hm).bind fun _ _ _ h => (b (by omega) h).map
  · exact (b (by omega) hm).bind fun _ _ _ h => (b (by omega) h).map
  · exact (b (by omega) hm).bind fun _ _ _ h => (b (by omega) h).bind fun _ _ _ h => (b (by omega) h).map
  · exact (readCll_follows hb _ _ _ hm).map
  · refine (hsym _).bind fun _ _ _ h => ?_
    repeat' split
    all_goals first | exact .got h | exact .corrupt | exact (b (by omega) h).map
  · refine (hsym _).bind fun _ _ _ h => ?_
    repeat' split
    all_goals first | exact .got h | exact .corrupt | exact (b (lengthExtra_le _) h).map
  · refine (hsym _).bind fun _ _ _ h => ?_
    repeat' split
    all_goals first | exact .got h | exact .corrupt | exact (b (distExtra_le _) h).map

/-- The framing formats are read in bytes only: where the byte reads of one reader follow those of another, so do
its decodes. -/
theorem decode_follows_bytes (hb : ∀ s t, M s t → Rd.Follows M (R.byte s) (Q.byte t))
    {c : Ctx} {f : Fmt} (hf : f ∈ [Fmt.zh, .zd, .zt, .sig, .ch, .ih, .fs]) {s : σ} {t : τ} (hm : M s t) :
    Rd.Follows M (decode R c f s) (decode Q c f t) := by
  have b : ∀ {s t}, M s t → Rd.Follows M (R.byte s) (Q.byte t) := fun h => hb _ _ h
  have be : ∀ {n v s t}, M s t → Rd.Follows M (readBE R n v s) (readBE Q n v t) := fun h =>
    readBE_follows hb _ _ _ _ h
  fin_cases hf
  · exact (b hm).bind fun _ _ _ h => (b h).map
  · exact (be hm).map
  · exact (be hm).map
  · exact (be hm).map
  · exact (be hm).bind fun _ _ _ h => (be h).map
  · exact (be hm).bind fun _ _ _ h => (be h).bind fun _ _ _ h => (b h).bind fun _ _ _ h => (b h).bind
      fun _ _ _ h => (b h).bind fun _ _ _ h => (b h).bind fun _ _ _ h => (b h).map
  · exact (b hm).map

end Follows

namespace Machine

/-! ## What a read of the machine consumes -/

/-- `t` is `s` after consuming `n` bytes of the input: only the input queue, `POS`, `BSR` and `CHK` differ, the
bit reader keeps its bound, and outside mode 2 nor does `CHK`. -/
structure Consumes (n : Nat) (s t : State) : Prop where
  enough : n ≤ s.fifo.length
  frame : t = { s with fifo := s.fifo.drop n, pos := s.pos + n, bsr := t.bsr, chk := t.chk }
  bound : AccumulatorBound s → AccumulatorBound t
  idat : s.chk.idatRem < 2 ^ 32 → t.chk.idatRem < 2 ^ 32
  runDone : t.chk.runDone = s.chk.runDone
  chk : s.mode ≠ .png → t.chk = s.chk

theorem Consumes.refl (s : State) : Consumes 0 s s :=
  ⟨Nat.zero_le _, by simp, id, id, rfl, fun _ => rfl⟩

theorem Consumes.trans {m n : Nat} {a b c : State} (h1 : Consumes m a b) (h2 : Consumes n b c) :
    Consumes (m + n) a c := by
  have e1 := h1.frame
  have hf : b.fifo = a.fifo.drop m := by rw [e1]
  have hmode : b.mode = a.mode := by rw [e1]
  refine ⟨?_, ?_, h2.bound ∘ h1.bound, h2.idat ∘ h1.idat, h2.runDone.trans h1.runDone, ?_⟩
  · have := h2.enough
    rw [hf, List.length_drop] at this
    have := h1.enough
    omega
  · have e2 := h2.frame
    rw [e2]
    conv_lhs => rw [e1]
    simp [List.drop_drop, Nat.add_comm, Nat.add_left_comm]
  · intro h
    rw [h2.chk (by rw [hmode]; exact h), h1.chk h]

theorem primaryGet_consumes {s t : State} {b : Byte} (h : primaryGet s = .got b t) : Consumes 1 s t := by
  unfold primaryGet at h
  split at h
  · rename_i c rest hf
    cases h
    exact ⟨by simp [hf], by simp [hf], fun h => h, id, rfl, fun _ => rfl⟩
  · split at h <;> cases h

theorem skip_consumes {n : Nat} {s t : State} {u : Unit} (h : skip n s = .got u t) : Consumes n s t := by
  unfold skip at h
  split at h
  · cases h
    exact ⟨by assumption, rfl, fun h => h, id, rfl, fun _ => rfl⟩
  · split at h <;> cases h

/-- Some number of bytes is consumed. -/
def ConsumesSome (s t : State) : Prop := ∃ n, Consumes n s t

theorem primaryReader_respects : primaryReader.Respects ConsumesSome where
  refl s := ⟨0, .refl s⟩
  trans := fun ⟨_, h1⟩ ⟨_, h2⟩ => ⟨_, h1.trans h2⟩
  bits := fun _ h => by simp [primaryReader] at h
  byte := fun h => ⟨1, primaryGet_consumes h⟩

theorem feederAdvance_consumes : ∀ {fuel : Nat} {s t : State} {u : Unit},
    s.mode = .png → feederAdvance fuel s = .got u t → ConsumesSome s t := by
  intro fuel
  induction fuel with
  | zero => intro s t u _ h; simp [feederAdvance] at h
  | succ n ih =>
    intro s t u hm h
    unfold feederAdvance at h
    split at h
    · cases h; exact ⟨0, .refl _⟩
    · obtain ⟨_, s1, h1, h⟩ := Rd.bind_got h
      obtain ⟨len, s2, h2, h⟩ := Rd.bind_got h
      obtain ⟨ctype, s3, h3, h⟩ := Rd.bind_got h
      have c3 : ConsumesSome s s3 := primaryReader_respects.trans ⟨4, skip_consumes h1⟩
        (primaryReader_respects.trans (readBE_rel primaryReader_respects h2)
          (readBE_rel primaryReader_respects h3))
      split at h
      · cases h
      · obtain ⟨k, hk⟩ := c3
        have hlen := readBE_lt h2
        have hm3 : s3.mode = .png := by rw [hk.frame]; exact hm
        refine primaryReader_respects.trans ⟨k, hk⟩ (primaryReader_respects.trans ⟨0, ?_⟩ (ih (by exact hm3) h))
        exact ⟨by omega, by simp, fun h => h, fun _ => by simpa using hlen, rfl, fun h => absurd hm3 h⟩

theorem feederGet_consumes {s t : State} {b : Byte} (hm : s.mode = .png) (h : feederGet s = .got b t) :
    ConsumesSome s t := by
  obtain ⟨_, s1, h1, h⟩ := Rd.bind_got h
  obtain ⟨b', s2, h2, h⟩ := Rd.bind_got h
  cases h
  obtain ⟨k, hk⟩ := feederAdvance_consumes hm h1
  have hm1 : s1.mode = .png := by rw [hk.frame]; exact hm
  have c2 := primaryGet_consumes h2
  have hm2 : s2.mode = .png := by rw [c2.frame]; exact hm1
  refine primaryReader_respects.trans ⟨k, hk⟩ (primaryReader_respects.trans ⟨1, c2⟩ ⟨0, ?_⟩)
  exact ⟨by omega, by simp, fun h => h, fun h => by simp; omega, rfl, fun h => absurd hm2 h⟩

theorem currentGet_consumes {s t : State} {b : Byte} (h : currentGet s = .got b t) : ConsumesSome s t := by
  unfold currentGet at h
  cases hm : s.mode with
  | rawDeflate => simp only [hm] at h; exact ⟨1, primaryGet_consumes h⟩
  | zlib => simp only [hm] at h; exact ⟨1, primaryGet_consumes h⟩
  | png => simp only [hm] at h; exact feederGet_consumes hm h

/-! ## No byte read touches the accumulator -/

theorem primaryGet_bsr {s t : State} {b : Byte} (h : primaryGet s = .got b t) : t.bsr = s.bsr := by
  unfold primaryGet at h
  split at h
  · cases h; rfl
  · split at h <;> cases h

theorem skip_bsr {n : Nat} {s t : State} {u : Unit} (h : skip n s = .got u t) : t.bsr = s.bsr := by
  unfold skip at h
  split at h
  · cases h; rfl
  · split at h <;> cases h

theorem readBE_bsr {n v : Nat} {s t : State} {w : Nat} (h : readBE primaryReader n v s = .got w t) :
    t.bsr = s.bsr :=
  readBE_rel (R := primaryReader) (P := fun x y => y.bsr = x.bsr)
    ⟨fun _ => rfl, fun h1 h2 => h2.trans h1, fun _ h => by simp [primaryReader] at h, primaryGet_bsr⟩ h

theorem feederAdvance_bsr : ∀ {fuel : Nat} {s t : State} {u : Unit},
    feederAdvance fuel s = .got u t → t.bsr = s.bsr := by
  intro fuel
  induction fuel with
  | zero => intro s t u h; simp [feederAdvance] at h
  | succ n ih =>
    intro s t u h
    unfold feederAdvance at h
    split at h
    · cases h; rfl
    · obtain ⟨_, s1, h1, h⟩ := Rd.bind_got h
      obtain ⟨_, s2, h2, h⟩ := Rd.bind_got h
      obtain ⟨_, s3, h3, h⟩ := Rd.bind_got h
      split at h
      · cases h
      · exact (ih h).trans ((readBE_bsr h3).trans ((readBE_bsr h2).trans (skip_bsr h1)))

theorem currentGet_bsr {s t : State} {b : Byte} (h : currentGet s = .got b t) : t.bsr = s.bsr := by
  unfold currentGet at h
  split at h
  · obtain ⟨_, s1, h1, h⟩ := Rd.bind_got h
    obtain ⟨_, s2, h2, h⟩ := Rd.bind_got h
    cases h
    exact (primaryGet_bsr h2).trans (feederAdvance_bsr h1)
  · exact primaryGet_bsr h
  · exact primaryGet_bsr h

/-- The byte that a refill ORs in meets no set bit and keeps the accumulator below 2^cnt (R152). -/
theorem refill_acc {acc : BitVec 32} {cnt : Nat} (b : Byte) (hc : cnt < 16) (ha : acc.toNat < 2 ^ cnt) :
    (acc ||| (b.zeroExtend 32 <<< cnt)).toNat = acc.toNat + b.toNat * 2 ^ cnt := by
  have hb : b.toNat < 256 := b.isLt
  have hp : 2 ^ cnt ≤ 2 ^ 15 := Nat.pow_le_pow_right (by omega) (by omega)
  have hlt : b.toNat * 2 ^ cnt < 2 ^ 32 := by nlinarith
  simp only [BitVec.toNat_or, BitVec.toNat_shiftLeft, BitVec.toNat_setWidth, BitVec.truncate_eq_setWidth]
  rw [Nat.mod_eq_of_lt (by omega : b.toNat < 2 ^ 32), Nat.shiftLeft_eq, Nat.mod_eq_of_lt hlt,
    Nat.or_comm, Nat.mul_comm]
  rw [← Nat.two_pow_add_eq_or_of_lt ha]
  ring

/-- The refill loop consumes bytes; from at most 7 + n bits held it ends with n to n + 7 bits (R152). -/
theorem refill_spec {n : Nat} (hn : n ≤ 16) : ∀ {fuel : Nat} {s t : State} {u : Unit},
    refill n fuel s = .got u t →
    (∃ k, k ≤ s.fifo.length ∧ t = { s with fifo := s.fifo.drop k, pos := s.pos + k, bsr := t.bsr, chk := t.chk }) ∧
    (s.chk.idatRem < 2 ^ 32 → t.chk.idatRem < 2 ^ 32) ∧ t.chk.runDone = s.chk.runDone ∧
    (s.mode ≠ .png → t.chk = s.chk) ∧
    (s.bsr.cnt ≤ n + 7 → s.bsr.acc.toNat < 2 ^ s.bsr.cnt →
      n ≤ s.bsr.cnt + 8 * fuel → n ≤ t.bsr.cnt ∧ t.bsr.cnt ≤ n + 7 ∧ t.bsr.acc.toNat < 2 ^ t.bsr.cnt) := by
  intro fuel
  induction fuel with
  | zero =>
    intro s t u h
    simp only [refill, Rd.got.injEq] at h
    rw [← h.2]
    exact ⟨⟨0, by omega, by simp⟩, id, rfl, fun _ => rfl, fun h1 h2 h3 => ⟨by omega, h1, h2⟩⟩
  | succ fuel ih =>
    intro s t u h
    unfold refill at h
    split at h
    · rename_i hlt
      obtain ⟨b, s1, h1, h⟩ := Rd.bind_got h
      obtain ⟨k, hk⟩ := currentGet_consumes h1
      obtain ⟨⟨m, hm1, hm2⟩, hi, hr, hc, hb⟩ := ih h
      have hm2' := hm2
      rw [hk.frame] at hm1 hm2'
      simp only at hm1 hm2'
      rw [List.length_drop] at hm1
      have hbsr : s1.bsr = s.bsr ∨ True := Or.inr trivial
      have hmode : s1.mode = s.mode := by rw [hk.frame]
      refine ⟨⟨k + m, by have := hk.enough; omega, ?_⟩, hi ∘ hk.idat, hr.trans hk.runDone, ?_, ?_⟩
      · rw [hm2']
        simp [List.drop_drop, Nat.add_assoc]
      · intro hne
        rw [hc (by simpa [hmode] using hne)]
        exact hk.chk hne
      · intro h1c h2c h3c
        have hs1 : s1.bsr = s.bsr := currentGet_bsr h1
        rw [hs1] at hb
        apply hb
        · simp; omega
        · simp only
          rw [refill_acc b (by omega) h2c]
          have hb' : b.toNat < 256 := b.isLt
          calc s.bsr.acc.toNat + b.toNat * 2 ^ s.bsr.cnt
              < 2 ^ s.bsr.cnt + 255 * 2 ^ s.bsr.cnt := by
                have := Nat.mul_le_mul_right (2 ^ s.bsr.cnt) (show b.toNat ≤ 255 by omega)
                omega
            _ = 2 ^ (s.bsr.cnt + 8) := by rw [pow_add]; ring
        · simp; omega
    · rename_i hge
      cases h
      exact ⟨⟨0, by omega, by simp⟩, id, rfl, fun _ => rfl, fun h1 h2 h3 => ⟨by omega, h1, h2⟩⟩

theorem getDataBits_consumes {n : Nat} (hn : n ≤ 16) {s t : State} {v : Nat}
    (h : getDataBits n s = .got v t) : ConsumesSome s t := by
  obtain ⟨_, s1, h1, h⟩ := Rd.bind_got h
  cases h
  obtain ⟨⟨k, hk1, hk2⟩, hi, hr, hc, hb⟩ := refill_spec hn h1
  refine ⟨k, hk1, ?_, ?_, hi, hr, hc⟩
  · rw [hk2]
  · intro ⟨ha, hb'⟩
    obtain ⟨h1', h2', h3'⟩ := hb (by omega) hb' (by omega)
    refine ⟨by simp; omega, ?_⟩
    simp only [BitVec.toNat_ushiftRight, Nat.shiftRight_eq_div_pow]
    rw [Nat.div_lt_iff_lt_mul (by positivity), ← pow_add]
    rwa [Nat.sub_add_cancel h1']

theorem streamReader_respects : streamReader.Respects ConsumesSome where
  refl s := ⟨0, .refl s⟩
  trans := fun ⟨_, h1⟩ ⟨_, h2⟩ => ⟨_, h1.trans h2⟩
  bits := fun hn h => getDataBits_consumes hn h
  byte := fun h => currentGet_consumes h

theorem readerOf_respects (f : Fmt) : (readerOf f).Respects ConsumesSome := by
  cases f <;> first | exact primaryReader_respects | exact streamReader_respects

/-- Reading an element consumes input and writes `BSR` and `CHK`, nothing else. -/
theorem fetch_consumes {f : Fmt} {s t : State} {i : Instr} (h : fetch f s = .got i t) : ConsumesSome s t :=
  decode_rel (readerOf_respects f) h

end Machine

end Sys2Proof
end

