-- ==== Sys2Proof/Laws/Step.lean ====
section
/-! SUPPORT. Everything a step can do, said once: `step_cases` takes a step apart, `exec_effect` the
ninety-two meanings into the shared operations they are made of. -/

namespace Sys2Proof.Machine

/-! ## The ways a step goes on -/

/-- What the block's own step does when it answers a next state. -/
inductive BlockStep (s t : State) : Prop where
  /-- IDLE or DONE: nothing. -/
  | idle (h : s.runState ≠ .busy) (ht : t = s)
  /-- A transfer is offered: accepted or held. -/
  | drain (h : s.runState = .busy) (x : OutXfer) (rest : List OutXfer) (ho : s.offer = x :: rest)
      (ht : t = Machine.drain x rest s)
  /-- A complete scanline is reconstructed. -/
  | scanline (h : s.runState = .busy) (ho : s.offer = []) (hd : s.scanlineDue = true)
      (ht : exec (fetchScanline s) s = .next t)
  /-- An element is read and performed. -/
  | element (h : s.runState = .busy) (ho : s.offer = []) (hd : s.scanlineDue = false) (f : Fmt)
      (hf : s.phase.fmt = some f) (i : Instr) (r : State) (hr : fetch f s = .got i r)
      (ht : exec i r = .next t)
  /-- A read fails: the latch. -/
  | fail (h : s.runState = .busy) (ho : s.offer = []) (hd : s.scanlineDue = false) (f : Fmt)
      (hf : s.phase.fmt = some f) (k : ErrKind)
      (hk : (k = eofKind f ∧ fetch f s = .eof) ∨ (k = .deflate .corruptSymbol ∧ fetch f s = .corrupt))
      (ht : t = latch k s)
  /-- A byte is missing: the block holds. -/
  | hold (h : s.runState = .busy) (ho : s.offer = []) (hd : s.scanlineDue = false) (f : Fmt)
      (hf : s.phase.fmt = some f) (hr : fetch f s = .wait) (ht : t = s)
  /-- One pass of an operation that no element encodes. -/
  | operation (h : s.runState = .busy) (ho : s.offer = []) (hd : s.scanlineDue = false)
      (hf : s.phase.fmt = none) (ht : runOperation s = .next t)

theorem blockStep_cases {s t : State} (h : blockStep s = .next t) : BlockStep s t := by
  unfold blockStep at h
  split at h
  · rename_i hs; cases h; exact .idle (by simp [hs]) rfl
  · rename_i hs; cases h; exact .idle (by simp [hs]) rfl
  · rename_i hs
    split at h
    · rename_i x rest ho; cases h; exact .drain hs x rest ho rfl
    · rename_i ho
      unfold runNext at h
      split at h
      · rename_i hd; exact .scanline hs ho hd h
      · rename_i hd
        simp only [Bool.not_eq_true] at hd
        split at h
        · rename_i f hf
          unfold runElement at h
          split at h
          · rename_i i r hr; exact .element hs ho hd f hf i r hr h
          · rename_i hr; cases h; exact .fail hs ho hd f hf _ (.inl ⟨rfl, hr⟩) rfl
          · rename_i hr; cases h; exact .fail hs ho hd f hf _ (.inr ⟨rfl, hr⟩) rfl
          · rename_i hr; cases h; exact .hold hs ho hd f hf hr rfl
        · rename_i hf; exact .operation hs ho hd hf h

/-- While a transfer is offered and the host does nothing, a step is the drain (R464). -/
theorem step_drain {s : State} {x : OutXfer} {rest : List OutXfer} (hb : s.runState = .busy) (hh : s.host = [])
    (ho : s.offer = x :: rest) : step s = .next (Machine.drain x rest s) := by
  simp only [step, cycle]
  rw [hh]
  simp only [blockStep]
  rw [hb]
  simp only [ho]

/-- What a step does when it answers a next state: a host action, or the block's own step. -/
inductive StepCase (s t : State) : Prop where
  | rst (rest : List HostEvent) (h : s.host = .rst :: rest) (ht : t = hostReset { s with host := rest })
  | start (m : BitVec 2) (mode : Mode) (rest : List HostEvent) (h : s.host = .start m :: rest)
      (hb : s.runState ≠ .busy) (hm : modeOf m = some mode)
      (ht : t = startState mode { s with host := rest })
  | xfer (b : Byte) (rest : List HostEvent) (h : s.host = .xfer b :: rest) (hb : s.runState = .busy)
      (he : s.inEnd = false) (ht : t = { s with host := rest, fifo := s.fifo ++ [b] })
  | inEnd (rest : List HostEvent) (h : s.host = .inEnd :: rest)
      (ht : t = { s with host := rest, inEnd := true })
  | obReady (r : Bool) (rest : List HostEvent) (h : s.host = .obReady r :: rest)
      (ht : t = { s with host := rest, obReady := r })
  | slReady (r : Bool) (rest : List HostEvent) (h : s.host = .slReady r :: rest)
      (ht : t = { s with host := rest, slReady := r })
  | pass (rest : List HostEvent) (h : s.host = .pass :: rest) (ht : BlockStep { s with host := rest } t)
  | own (h : s.host = []) (ht : BlockStep s t)

theorem step_cases {s t : State} (h : step s = .next t) : StepCase s t := by
  unfold step cycle at h
  split at h
  · rename_i e rest he
    cases e with
    | rst => cases h; exact .rst rest he rfl
    | start m =>
      simp only [hostStep, hostStart] at h
      split at h
      · cases h
      · rename_i hb
        split at h
        · cases h
        · rename_i mode hm; cases h; exact .start m mode rest he hb hm rfl
    | xfer b =>
      simp only [hostStep, hostXfer] at h
      split at h
      · cases h
      · rename_i hb
        split at h
        · cases h
        · rename_i hi
          cases h
          exact .xfer b rest he (by simpa [State.inReady] using hb) (by simpa using hi) rfl
    | inEnd => cases h; exact .inEnd rest he rfl
    | obReady r => cases h; exact .obReady r rest he rfl
    | slReady r => cases h; exact .slReady r rest he rfl
    | pass => exact .pass rest he (blockStep_cases h)
  · rename_i he; exact .own he (blockStep_cases h)

/-! ## The meanings, by the shared operation they are made of -/

/-- The answers a meaning can give in the state `s`. -/
inductive Effect (s : State) : Instr → Res → Prop where
  | blkStored (f : Bool) : Effect s (.blkStored f) (execBlkStored f s)
  | blkFixed (f : Bool) : Effect s (.blkFixed f) (execBlkFixed f s)
  | blkDyn (f : Bool) : Effect s (.blkDyn f) (execBlkDyn f s)
  | blkRsvd (f : Bool) : Effect s (.blkRsvd f) (execBlkRsvd f s)
  | storedHdr (l n : BitVec 16) : Effect s (.storedHdr l n) (execStoredHdr l n s)
  | dynHdr (l d : BitVec 5) (c : BitVec 4) : Effect s (.dynHdr l d c) (execDynHdr l d c s)
  | dynCll (ls : List (BitVec 3)) : Effect s (.dynCll ls) (execDynCll ls s)
  | clLen (l : BitVec 4) : Effect s (.clLen l) (execClLen l s)
  | clRep (e : BitVec 2) : Effect s (.clRep e) (execClRep e s)
  | clZero (i : Instr) (count : Nat) (hi : i.fmt = .cls) : Effect s i (repeatLen count 0#4 s)
  | lit (b : Byte) : Effect s (.lit b) (execLit b s)
  | eob : Effect s .eob (execEob s)
  | llInv (o : Bool) : Effect s (.llInv o) (execLlInv o s)
  | length (i : Instr) (sym : BitVec 9) (mlen : Nat) (h1 : 3 ≤ mlen) (h2 : mlen ≤ 258)
      (hi : i.fmt = .lls) :
      Effect s i (lengthSymbol sym mlen s)
  | dist (i : Instr) (dsym : BitVec 5) (mdist : Nat) (h1 : 1 ≤ mdist) (h2 : mdist ≤ 32768)
      (hi : i.fmt = .ds) :
      Effect s i (distanceSymbol dsym mdist s)
  | distInv (o : Bool) : Effect s (.distInv o) (execDistInv o s)
  | zlib (i : Instr) (cmf flg : Byte) (hi : i.fmt = .zh) : Effect s i (zlibHeader cmf flg s)
  | dictid (id : Word) : Effect s (.zlibDictid id) (execZlibDictid id s)
  | trailer (a : Word) : Effect s (.zlibTrailer a) (execZlibTrailer a s)
  | sig (b : BitVec 64) : Effect s (.pngSig b) (execPngSig b s)
  | chunkIhdr (l : Word) : Effect s (.chunkIhdr l) (execChunkIhdr l s)
  | chunkIdat (l : Word) : Effect s (.chunkIdat l) (execChunkIdat l s)
  | chunkIend (l : Word) : Effect s (.chunkIend l) (execChunkIend l s)
  | chunkAnc (l c : Word) : Effect s (.chunkAnc l c) (execChunkAnc l c s)
  | chunkCrit (l c : Word) : Effect s (.chunkCrit l c) (execChunkCrit l c s)
  | ihdr (w h : Word) (d c m f il : Byte) : Effect s (.ihdrPayload w h d c m f il) (execIhdrPayload w h d c m f il s)
  | filter (i : Instr) (l u : Bool) (p : Byte → Byte → Byte → Byte)
      (hi : i.fmt = .fs) : Effect s i (reconstruct l u p s)
  | fltInv (b : Byte) : Effect s (.fltInv b) (execFltInv b s)

theorem exec_effect (i : Instr) (s : State) : Effect s i (exec i s) := by
  cases i
  case blkStored f => exact .blkStored f
  case blkFixed f => exact .blkFixed f
  case blkDyn f => exact .blkDyn f
  case blkRsvd f => exact .blkRsvd f
  case storedHdr l n => exact .storedHdr l n
  case dynHdr l d c => exact .dynHdr l d c
  case dynCll ls => exact .dynCll ls
  case clLen l => exact .clLen l
  case clRep e => exact .clRep e
  case clZrep3 e => exact .clZero _ _ rfl
  case clZrep11 e => exact .clZero _ _ rfl
  case lit b => exact .lit b
  case eob => exact .eob
  case llInv o => exact .llInv o
  case distInv o => exact .distInv o
  case zlibHdr a b => exact .zlib _ a b rfl
  case zlibHdrFdict a b => exact .zlib _ a b rfl
  case zlibHdrBadcm a b => exact .zlib _ a b rfl
  case zlibDictid a => exact .dictid a
  case zlibTrailer a => exact .trailer a
  case pngSig a => exact .sig a
  case chunkIhdr l => exact .chunkIhdr l
  case chunkIdat l => exact .chunkIdat l
  case chunkIend l => exact .chunkIend l
  case chunkAnc l c => exact .chunkAnc l c
  case chunkCrit l c => exact .chunkCrit l c
  case ihdrPayload w h d c m f il => exact .ihdr w h d c m f il
  case fltNone => exact .filter _ _ _ _ rfl
  case fltSub => exact .filter _ _ _ _ rfl
  case fltUp => exact .filter _ _ _ _ rfl
  case fltAvg => exact .filter _ _ _ _ rfl
  case fltPaeth => exact .filter _ _ _ _ rfl
  case fltInv b => exact .fltInv b
  all_goals first
    | exact .length _ _ _ (by omega) (by omega) rfl
    | exact .dist _ _ _ (by omega) (by omega) rfl

end Sys2Proof.Machine
end

