-- ==== Sys2Proof/Laws/Ops.lean ====
section
/-! SUPPORT. One lemma for each shared operation that has no `rfl` law: what is decoded, what a push keeps, what
a skip, the latch, a reconstruction and the drain can do. -/

namespace Sys2Proof.Machine

/-! ## Decoding -/

/-- What is decoded is an element of the format asked for. -/
theorem decode_fmt {σ : Type} {R : Reader σ} {c : Ctx} {f : Fmt} {s t : σ} {i : Instr}
    (h : decode R c f s = .got i t) : i.fmt = f := by
  have hlen : ∀ k e, (lengthInstr k e).fmt = .lls := by
    intro k e; unfold lengthInstr; split <;> rfl
  have hdist : ∀ k e, (distInstr k e).fmt = .ds := by
    intro k e; unfold distInstr; split <;> rfl
  cases f with
  | bh =>
    obtain ⟨a, s1, h1, h⟩ := Rd.bind_got h
    obtain ⟨b, h2, hi⟩ := Rd.map_got h
    subst hi; unfold blockInstr; repeat' split
    all_goals rfl
  | sh =>
    obtain ⟨a, s1, h1, h⟩ := Rd.bind_got h
    obtain ⟨b, h2, hi⟩ := Rd.map_got h
    subst hi; rfl
  | dh =>
    obtain ⟨a, s1, h1, h⟩ := Rd.bind_got h
    obtain ⟨a, s1, h1, h⟩ := Rd.bind_got h
    obtain ⟨b, h2, hi⟩ := Rd.map_got h
    subst hi; rfl
  | cll => obtain ⟨b, h2, hi⟩ := Rd.map_got h; subst hi; rfl
  | cls =>
    obtain ⟨sym, s1, h1, h⟩ := Rd.bind_got h
    repeat' split at h
    all_goals first
      | (cases h; done)
      | (cases h; rfl)
      | (obtain ⟨b, h2, hi⟩ := Rd.map_got h; subst hi; rfl)
  | lls =>
    obtain ⟨sym, s1, h1, h⟩ := Rd.bind_got h
    repeat' split at h
    all_goals first
      | (cases h; done)
      | (cases h; rfl)
      | (obtain ⟨b, h2, hi⟩ := Rd.map_got h; subst hi; exact hlen _ _)
  | ds =>
    obtain ⟨sym, s1, h1, h⟩ := Rd.bind_got h
    repeat' split at h
    all_goals first
      | (cases h; done)
      | (cases h; rfl)
      | (obtain ⟨b, h2, hi⟩ := Rd.map_got h; subst hi; exact hdist _ _)
  | zh =>
    obtain ⟨a, s1, h1, h⟩ := Rd.bind_got h
    obtain ⟨b, h2, hi⟩ := Rd.map_got h
    subst hi; unfold zlibInstr; repeat' split
    all_goals rfl
  | zd => obtain ⟨b, h2, hi⟩ := Rd.map_got h; subst hi; rfl
  | zt => obtain ⟨b, h2, hi⟩ := Rd.map_got h; subst hi; rfl
  | sig => obtain ⟨b, h2, hi⟩ := Rd.map_got h; subst hi; rfl
  | ch =>
    obtain ⟨a, s1, h1, h⟩ := Rd.bind_got h
    obtain ⟨b, h2, hi⟩ := Rd.map_got h
    subst hi; unfold chunkInstr; repeat' split
    all_goals rfl
  | ih =>
    obtain ⟨_, s1, h1, h⟩ := Rd.bind_got h
    obtain ⟨_, s2, h2, h⟩ := Rd.bind_got h
    obtain ⟨_, s3, h3, h⟩ := Rd.bind_got h
    obtain ⟨_, s4, h4, h⟩ := Rd.bind_got h
    obtain ⟨_, s5, h5, h⟩ := Rd.bind_got h
    obtain ⟨_, s6, h6, h⟩ := Rd.bind_got h
    obtain ⟨b, h2, hi⟩ := Rd.map_got h; subst hi; rfl
  | fs =>
    obtain ⟨b, h2, hi⟩ := Rd.map_got h; subst hi; unfold filterInstr; repeat' split
    all_goals rfl

/-! ## The window -/

/-- What every push keeps about the window: its form, its counters, and that every byte a match may read is
there (R79, R82). -/
structure WinOk (w : Win) : Prop where
  wf : Memory.wf w.mem = true
  out : ∀ a, Config.winSize ≤ a → Memory.read w.mem a = none
  fill : w.fill = min w.total Config.winSize
  wr : w.wr.toNat = w.total % Config.winSize
  valid : ∀ d, 1 ≤ d → d ≤ w.fill → (Memory.read w.mem (w.addrBack d)).isSome = true

theorem addrBack_eq (w : Win) (d : Nat) (hd : d ≤ 32768) :
    w.addrBack d = (w.wr.toNat + 32768 - d) % 32768 := by
  have := w.wr.isLt
  simp only [Win.addrBack, BitVec.toNat_sub, BitVec.toNat_ofNat]
  norm_num at this ⊢
  by_cases h : d = 32768
  · subst h; omega
  · rw [Nat.mod_eq_of_lt (by omega : d < 32768)]; omega

theorem winOk_push (b : Byte) (w : Win) (h : WinOk w) : WinOk (w.push b) := by
  have hlt := w.wr.isLt
  have hwr : (w.wr + 1#15).toNat = (w.wr.toNat + 1) % 32768 := by simp [BitVec.toNat_add]
  refine ⟨push_wf _ _ h.wf, ?_, ?_, ?_, ?_⟩
  · intro a ha
    simp only [Config.winSize] at ha
    rw [push_read_other _ _ _ (by omega) h.wf]
    exact h.out a ha
  · simp only [push_fill, push_total, h.fill, Config.winSize]; omega
  · simp only [push_wr, push_total, hwr, h.wr, Config.winSize]; omega
  · intro d h1 h2
    have hf := h.fill
    simp only [push_fill, Config.winSize] at h2 hf
    rw [addrBack_eq _ _ (by omega)]
    simp only [push_wr, hwr]
    by_cases hd : d = 1
    · subst hd
      have : ((w.wr.toNat + 1) % 32768 + 32768 - 1) % 32768 = w.wr.toNat := by omega
      rw [this, push_read_same]; rfl
    · have hv := h.valid (d - 1) (by omega) (by omega)
      rw [addrBack_eq _ _ (by omega)] at hv
      have e : ((w.wr.toNat + 1) % 32768 + 32768 - d) % 32768 = (w.wr.toNat + 32768 - (d - 1)) % 32768 := by omega
      rw [e, push_read_other _ _ _ (by omega) h.wf]
      exact hv

/-! ## The Adler-32 unit -/

theorem adlerUpdate_reduced (b : Byte) (a : Adl) :
    (adlerUpdate b a).s1.toNat < 65521 ∧ (adlerUpdate b a).s2.toNat < 65521 := by
  simp only [adlerUpdate, Config.adlerMod, BitVec.toNat_ofNat]
  constructor <;> omega

/-! ## The error latch -/

/-- The latch writes `STATE` and the error registers and nothing else (R430). -/
theorem latch_frame (k : ErrKind) (s : State) : latch k s =
    { s with runState := .done, perr := (latch k s).perr, zerr := (latch k s).zerr, derr := (latch k s).derr } := by
  cases k <;> cases hm : s.mode <;> simp [latch, hm]

/-! ## Skips -/

/-- Everything a skip can do: pass over its bytes and go on, raise at a known end, or wait (R11, R410, R465). -/
theorem skipThen_cases (n : Nat) (s : State) (k : State → State) :
    (n ≤ s.fifo.length ∧ skipThen n s k = .next (k { s with fifo := s.fifo.drop n, pos := s.pos + n })) ∨
    (s.fifo.length < n ∧ s.inEnd = true ∧ skipThen n s k = .next (latch (.png .prematureEndOfFile) s)) ∨
    (s.fifo.length < n ∧ s.inEnd = false ∧ skipThen n s k = .next s) := by
  unfold skipThen skip
  by_cases h : n ≤ s.fifo.length
  · exact .inl ⟨h, by simp [h]⟩
  · cases he : s.inEnd
    · exact .inr (.inr ⟨by omega, rfl, by simp [h]⟩)
    · exact .inr (.inl ⟨by omega, rfl, by simp [h, raise]⟩)

/-! ## Reconstruction -/

theorem filterRow_length (pred : Byte → Byte → Byte → Byte) (bpp : Nat) (first : Bool) (prior : List Byte) :
    ∀ ins cur : List Byte, (filterRow pred bpp first prior ins cur).length = cur.length + ins.length
  | [], cur => by simp [filterRow]
  | _ :: ins, cur => by simp [filterRow, filterRow_length pred bpp first prior ins]; omega

/-- A reconstruction delivers or, with a buffer that is not there, stops (R381, R83). -/
theorem reconstruct_cases (l u : Bool) (pred : Byte → Byte → Byte → Byte) (s : State) :
    (buffersOk l u s = true ∧ reconstruct l u pred s = .next (deliver (rowOf pred s) s)) ∨
    (buffersOk l u s = false ∧ reconstruct l u pred s = .fault .scanlineUnwritten) := by
  unfold reconstruct
  cases h : buffersOk l u s <;> simp

/-! ## Delivery -/

/-- Everything the drain can do: hold, make a transfer, or make the last transfer of a scanline event and
advance (R464, R381). -/
theorem drain_cases (x : OutXfer) (rest : List OutXfer) (s : State) :
    (x.accepted s = false ∧ drain x rest s = s) ∨
    (x.accepted s = true ∧ x.endsScanline = false ∧
      drain x rest s = { s with offer := rest, log := s.log ++ [x] }) ∨
    (x.accepted s = true ∧ x.endsScanline = true ∧
      drain x rest s = { s with
        offer := rest, log := s.log ++ [x]
        flt := { s.flt with pend := [], prior := s.flt.cur, row := s.flt.row + 1#32 } }) := by
  unfold drain accept
  cases h : x.accepted s <;> cases he : x.endsScanline <;> simp [advanceScanline]

theorem scanColumns_ends (row : Word) : ∀ (bytes : List Byte) (first : Bool), bytes ≠ [] →
    ∃ init x, scanColumns row first bytes = init ++ [x] ∧ x.endsScanline = true ∧ ∀ y ∈ init, y.endsScanline = false
  | [], _, h => absurd rfl h
  | [_], _, _ => ⟨[], _, rfl, rfl, by simp⟩
  | b :: c :: bytes, first, _ => by
    obtain ⟨init, x, h, hx, hi⟩ := scanColumns_ends row (c :: bytes) false (by simp)
    refine ⟨.scan row (some b) first false false :: init, x, by rw [scanColumns, h]; rfl, hx, ?_⟩
    simpa [OutXfer.endsScanline] using hi

/-- The last transfer of a scanline event ends it, and no other does (R64). -/
theorem scanXfers_ends (row : Word) (bytes : List Byte) :
    ∃ init x, scanXfers row bytes = init ++ [x] ∧ x.endsScanline = true ∧ ∀ y ∈ init, y.endsScanline = false := by
  cases bytes with
  | nil => exact ⟨[], _, rfl, rfl, by simp⟩
  | cons b bs => exact scanColumns_ends row (b :: bs) true (by simp)

theorem scanColumns_scan (row : Word) : ∀ (bytes : List Byte) (first : Bool) (x : OutXfer),
    x ∈ scanColumns row first bytes → ∃ data f l e, x = .scan row data f l e
  | [], _, _, h => by simp [scanColumns] at h
  | b :: bs, first, x, h => by
    rw [scanColumns, List.mem_cons] at h
    rcases h with h | h
    · exact ⟨_, _, _, _, h⟩
    · exact scanColumns_scan row bs false x h

/-- Every transfer of a scanline event is on the scanline port and carries its row (R64). -/
theorem scanXfers_scan (row : Word) (bytes : List Byte) (x : OutXfer) (h : x ∈ scanXfers row bytes) :
    ∃ data f l e, x = .scan row data f l e := by
  unfold scanXfers at h
  split at h
  · exact ⟨_, _, _, _, by simpa using h⟩
  · exact scanColumns_scan row bytes true x h

/-! ## Code lengths -/

/-- A repeat appends all its lengths or raises (R203). -/
theorem repeatLen_cases (count : Nat) (l : BitVec 4) (s : State) :
    (s.inf.lens.length + count ≤ lensTotal s ∧ repeatLen count l s = .next (appendLens (List.replicate count l) s)) ∨
    (lensTotal s < s.inf.lens.length + count ∧
      repeatLen count l s = .next (latch (.deflate .invalidDynamicReference) s)) := by
  unfold repeatLen raise
  by_cases h : s.inf.lens.length + count > lensTotal s
  · exact .inr ⟨h, by rw [if_pos h]⟩
  · exact .inl ⟨by omega, by rw [if_neg h]⟩

end Sys2Proof.Machine
end

