-- ==== Sys2Proof/Tests/Slice0.lean ====
section
/-! SUPPORT. Small tests of one step each, and for every statement of Obligations.lean that has hypotheses a
named state that meets them. Expected values are the spec's own examples (the rule is named) or follow by hand
from its tables; none is the model's answer. -/

namespace Sys2Proof.Tests

open Sys2Proof Sys2Proof.Machine

set_option Elab.async false

/-! ## Helpers -/

/-- Stream bits from a string of 0 and 1, first stream bit first. -/
def bits (s : String) : List Bool := s.toList.map (fun c => decide (c = '1'))

/-- A BUSY block about to make the pass, or read the element, of a phase. -/
def at' (m : Mode) (p : Phase) (bytes : List Byte) : State :=
  { State.reset with mode := m, runState := .busy, phase := p, fifo := bytes }

/-- A value of the next state, if there is one. -/
def seen {α : Type} (f : State → α) : Res → Option α
  | .next s => some (f s)
  | .fault _ => none
  | .refused _ => none

/-- The fault a step ends in, if it does. -/
def stop : Res → Option Fault
  | .next _ => none
  | .fault r => some r
  | .refused _ => none

/-- Does the step leave the whole state as it is? -/
def holds (s : State) : Bool := decide (seen id (step s) = some s)

/-- Decoding in the context of the opcode table: the fixed literal/length code, flat 5-bit codes for the
code-length and the distance symbols. -/
def reads (f : Fmt) (w : String) (i : Instr) : Bool := decide (decode bitReader tableCtx f (bits w) = .got i [])

/-- A block with 32768 bytes of history, by its counters. -/
def full : State := { at' .rawDeflate .dist [] with win := { mem := [], wr := 0#15, fill := 32768, total := 32768 } }

/-! ## Well-formedness: one ill-formed term for each check -/

theorem test_wf_cll_too_few : (Instr.dynCll [1#3, 2#3, 3#3]).wellFormed = false := by decide
theorem test_wf_cll_too_many : (Instr.dynCll (List.replicate 20 1#3)).wellFormed = false := by decide
theorem test_wf_cll_bounds : (Instr.dynCll (List.replicate 4 1#3)).wellFormed = true ∧
    (Instr.dynCll (List.replicate 19 1#3)).wellFormed = true := by decide
theorem test_wf_zlib_hdr : (Instr.zlibHdr 0x77#8 0x9C#8).wellFormed = false ∧
    (Instr.zlibHdr 0x78#8 0x20#8).wellFormed = false ∧ (Instr.zlibHdr 0x78#8 0x9C#8).wellFormed = true := by decide
theorem test_wf_zlib_fdict : (Instr.zlibHdrFdict 0x77#8 0x20#8).wellFormed = false ∧
    (Instr.zlibHdrFdict 0x78#8 0x9C#8).wellFormed = false := by decide
theorem test_wf_zlib_badcm : (Instr.zlibHdrBadcm 0x78#8 0x9C#8).wellFormed = false := by decide
theorem test_wf_anc : (Instr.chunkAnc 0#32 0x504C5445#32).wellFormed = false ∧
    (Instr.chunkAnc 0#32 0x74455874#32).wellFormed = true := by decide
theorem test_wf_crit : (Instr.chunkCrit 0#32 0x74455874#32).wellFormed = false ∧
    (Instr.chunkCrit 0#32 0x49484452#32).wellFormed = false ∧ (Instr.chunkCrit 0#32 0x49444154#32).wellFormed = false ∧
    (Instr.chunkCrit 0#32 0x49454E44#32).wellFormed = false := by decide
theorem test_wf_flt_inv : (Instr.fltInv 4#8).wellFormed = false ∧ (Instr.fltInv 5#8).wellFormed = true := by decide

/-! ## Decoding: every constructor from a word written out from the formats of 30_encoding.md -/

/-- R101: BFINAL, then BTYPE low bit first. -/
theorem test_decode_bh : reads .bh "000" (.blkStored false) ∧ reads .bh "100" (.blkStored true) ∧
    reads .bh "110" (.blkFixed true) ∧ reads .bh "001" (.blkDyn false) ∧ reads .bh "111" (.blkRsvd true) := by
  decide +kernel
/-- R102: the bytes 05 00 FA FF, each low bit first. -/
theorem test_decode_sh : reads .sh "10100000000000000101111111111111" (.storedHdr 5#16 0xFFFA#16) := by decide +kernel
/-- R103: HLIT 29, HDIST 2, HCLEN 12. -/
theorem test_decode_dh : reads .dh "10111010000011" (.dynHdr 29#5 2#5 12#4) := by decide +kernel
/-- R104: `tableCtx` has HCLEN 4; the lengths 3, 0, 4, 1. -/
theorem test_decode_cll : reads .cll "110000001100" (.dynCll [3#3, 0#3, 4#3, 1#3]) := by decide +kernel
/-- R105: symbols 8, 17, 18, and 16 after a first length; the codes are the symbols in 5 bits. -/
theorem test_decode_cls : reads .cls "01000" (.clLen 8#4) ∧ reads .cls "10001111" (.clZrep3 7#3) ∧
    reads .cls "100100110101" (.clZrep11 0b1010110#7) ∧
    decode bitReader { tableCtx with nlens := 1 } .cls (bits "1000001") = .got (.clRep 2#2) [] := by decide +kernel
/-- R200: symbol 16 in the first place takes no extra bits. -/
theorem test_decode_first_rep : decode bitReader tableCtx .cls (bits "1000001") = .got (.clRep 0#2) (bits "01") := by
  decide +kernel
/-- R217, R218, R259. -/
theorem test_decode_lls : reads .lls "10100100" (.lit 0x74#8) ∧ reads .lls "111111111" (.lit 0xFF#8) ∧
    reads .lls "0000000" .eob ∧ reads .lls "11000110" (.llInv false) ∧ reads .lls "11000111" (.llInv true) := by
  decide +kernel
/-- R290, in a table of 32 distance symbols. -/
theorem test_decode_dist_inv : reads .ds "11110" (.distInv false) ∧ reads .ds "11111" (.distInv true) := by decide +kernel
/-- R114, R115, R116. -/
theorem test_decode_zlib :
    decode bitReader tableCtx .zh (bitsOfBytes [0x78#8, 0x9C#8]) = .got (.zlibHdr 0x78#8 0x9C#8) [] ∧
    decode bitReader tableCtx .zh (bitsOfBytes [0x78#8, 0x20#8]) = .got (.zlibHdrFdict 0x78#8 0x20#8) [] ∧
    decode bitReader tableCtx .zh (bitsOfBytes [0x77#8, 0x20#8]) = .got (.zlibHdrBadcm 0x77#8 0x20#8) [] ∧
    decode bitReader tableCtx .zd (bitsOfBytes [1#8, 2#8, 3#8, 4#8]) = .got (.zlibDictid 0x01020304#32) [] ∧
    decode bitReader tableCtx .zt (bitsOfBytes [0x1A#8, 0x0B#8, 0x04#8, 0x5D#8]) = .got (.zlibTrailer 0x1A0B045D#32) [] := by
  decide +kernel
/-- R117 to R120. -/
theorem test_decode_png :
    decode bitReader tableCtx .sig (bitsOfBytes [0x89#8, 0x50#8, 0x4E#8, 0x47#8, 0x0D#8, 0x0A#8, 0x1A#8, 0x0A#8]) =
      .got (.pngSig 0x89504E470D0A1A0A#64) [] ∧
    decode bitReader tableCtx .ch (bitsOfBytes [0#8, 0#8, 0#8, 0x0D#8, 0x49#8, 0x48#8, 0x44#8, 0x52#8]) = .got (.chunkIhdr 13#32) [] ∧
    decode bitReader tableCtx .ch (bitsOfBytes [0#8, 0#8, 1#8, 0#8, 0x49#8, 0x44#8, 0x41#8, 0x54#8]) = .got (.chunkIdat 256#32) [] ∧
    decode bitReader tableCtx .ch (bitsOfBytes [0#8, 0#8, 0#8, 0#8, 0x49#8, 0x45#8, 0x4E#8, 0x44#8]) = .got (.chunkIend 0#32) [] ∧
    decode bitReader tableCtx .ch (bitsOfBytes [0#8, 0#8, 0#8, 9#8, 0x74#8, 0x45#8, 0x58#8, 0x74#8]) =
      .got (.chunkAnc 9#32 0x74455874#32) [] ∧
    decode bitReader tableCtx .ch (bitsOfBytes [0#8, 0#8, 0#8, 3#8, 0x50#8, 0x4C#8, 0x54#8, 0x45#8]) =
      .got (.chunkCrit 3#32 0x504C5445#32) [] ∧
    decode bitReader tableCtx .ih (bitsOfBytes [0#8, 0#8, 0#8, 2#8, 0#8, 0#8, 0#8, 5#8, 8#8, 2#8, 0#8, 0#8, 0#8]) =
      .got (.ihdrPayload 2#32 5#32 8#8 2#8 0#8 0#8 0#8) [] := by decide +kernel
/-- R121. -/
theorem test_decode_fs : [0#8, 1#8, 2#8, 3#8, 4#8, 5#8, 255#8].map filterInstr =
    [.fltNone, .fltSub, .fltUp, .fltAvg, .fltPaeth, .fltInv 5#8, .fltInv 255#8] := by decide

/-- Are these the word of a length element and the match length it sets? -/
def lengthRow (r : String × Instr × Nat) : Bool :=
  reads .lls r.1 r.2.1 && decide (seen (fun t => t.inf.mlen) (exec r.2.1 full) = some r.2.2)
/-- Are these the word of a distance element and the distance it sets? -/
def distRow (r : String × Instr × Nat) : Bool :=
  reads .ds r.1 r.2.1 && decide (seen (fun t => t.inf.mdist) (exec r.2.1 full) = some r.2.2)

/-- The examples of R230 to R244: word, element, match length. -/
theorem test_lengths_low : List.all (α := String × Instr × Nat) [
   ("0000001", .len257, 3), ("0000010", .len258, 4), ("0000011", .len259, 5),
   ("0000100", .len260, 6), ("0000101", .len261, 7), ("0000110", .len262, 8),
   ("0000111", .len263, 9), ("0001000", .len264, 10), ("00010011", .len265 1#1, 12),
   ("00010101", .len266 1#1, 14), ("00010111", .len267 1#1, 16), ("00011001", .len268 1#1, 18),
   ("000110110", .len269 1#2, 20), ("000111010", .len270 1#2, 24), ("000111110", .len271 1#2, 28)] lengthRow := by decide +kernel
/-- The examples of R245 to R258. -/
theorem test_lengths_high : List.all (α := String × Instr × Nat) [
   ("001000010", .len272 1#2, 32), ("0010001110", .len273 3#3, 38),
   ("0010010110", .len274 3#3, 46), ("0010011110", .len275 3#3, 54),
   ("0010100110", .len276 3#3, 62), ("00101011100", .len277 3#4, 70),
   ("00101101100", .len278 3#4, 86), ("00101111100", .len279 3#4, 102),
   ("110000001100", .len280 3#4, 118), ("1100000111000", .len281 3#5, 134),
   ("1100001011000", .len282 3#5, 166), ("1100001111000", .len283 3#5, 198),
   ("1100010011000", .len284 3#5, 230), ("11000101", .len285, 258)] lengthRow := by decide +kernel
/-- The examples of R260 to R274: word, element, distance. -/
theorem test_distances_low : List.all (α := String × Instr × Nat) [
   ("00000", .dist0, 1), ("00001", .dist1, 2), ("00010", .dist2, 3),
   ("00011", .dist3, 4), ("001001", .dist4 1#1, 6), ("001011", .dist5 1#1, 8),
   ("0011010", .dist6 1#2, 10), ("0011110", .dist7 1#2, 14), ("01000110", .dist8 3#3, 20),
   ("01001110", .dist9 3#3, 28), ("010101100", .dist10 3#4, 36), ("010111100", .dist11 3#4, 52),
   ("0110011000", .dist12 3#5, 68), ("0110111000", .dist13 3#5, 100), ("01110110000", .dist14 3#6, 132)] distRow := by decide +kernel
/-- The examples of R275 to R289. -/
theorem test_distances_high : List.all (α := String × Instr × Nat) [
   ("01111110000", .dist15 3#6, 196), ("100001100000", .dist16 3#7, 260),
   ("100011100000", .dist17 3#7, 388), ("1001011000000", .dist18 3#8, 516),
   ("1001111000000", .dist19 3#8, 772), ("10100110000000", .dist20 3#9, 1028),
   ("10101110000000", .dist21 3#9, 1540), ("101101100000000", .dist22 3#10, 2052),
   ("101111100000000", .dist23 3#10, 3076), ("1100011000000000", .dist24 3#11, 4100),
   ("1100111000000000", .dist25 3#11, 6148), ("11010110000000000", .dist26 3#12, 8196),
   ("11011110000000000", .dist27 3#12, 12292), ("111001100000000000", .dist28 3#13, 16388),
   ("111011100000000000", .dist29 3#13, 24580)] distRow := by decide +kernel

/-! ## DEFLATE, one step each -/

/-- R187: the first byte 2B is BFINAL = 1, BTYPE = 1 and leaves 5 bits. -/
theorem test_blk_fixed : seen (fun t => (t.inf.bfinal, t.inf.btype, t.bsr.cnt, t.phase))
    (step (at' .rawDeflate .blockHdr [0x2B#8])) = some (true, 1#2, 5, .body) := by decide +kernel
/-- R194: the first byte 07 is `InvalidBlockType`. -/
theorem test_blk_rsvd : seen (fun t => (t.derr, t.runState)) (step (at' .rawDeflate .blockHdr [0x07#8])) =
    some (2#3, .done) := by decide +kernel
/-- R155: the stored header starts at the next byte. -/
theorem test_blk_stored : seen (fun t => (t.bsr.cnt, t.fifo)) (step (at' .rawDeflate .blockHdr [0xF9#8, 5#8])) =
    some (0, [5#8]) := by decide +kernel
theorem test_blk_dyn : seen (fun t => (t.inf.bfinal, t.phase)) (step (at' .zlib .blockHdr [0x04#8])) =
    some (false, .dynHdr) := by decide +kernel
/-- R189's two examples. -/
theorem test_stored_hdr :
    seen (fun t => (t.inf.srem, t.derr)) (step (at' .rawDeflate .storedHdr [5#8, 0#8, 0xFA#8, 0xFF#8])) = some (5, 0#3) ∧
    seen (fun t => (t.inf.srem, t.derr)) (step (at' .rawDeflate .storedHdr [5#8, 0#8, 0xFB#8, 0xFF#8])) = some (0, 1#3) := by
  decide +kernel
theorem test_dyn_hdr : seen (fun t => (t.inf.hlit, t.inf.hdist, t.inf.hclen)) (exec (.dynHdr 31#5 31#5 15#4) full) =
    some (288, 32, 19) := by decide
/-- R196: the fourth length is that of symbol 0, the fifth of symbol 8. -/
theorem test_dyn_cll : seen (fun t => (t.inf.cll.getD 0 0#3, t.inf.cll.getD 8 0#3, t.inf.cll.getD 15 7#3))
    (exec (.dynCll [0#3, 0#3, 0#3, 2#3, 3#3]) full) = some (2#3, 3#3, 0#3) := by decide +kernel
/-- A block in the middle of 300 code lengths. -/
def someLens (ls : List (BitVec 4)) : State :=
  { at' .rawDeflate .codeLens [] with inf := { State.reset.inf with hlit := 257, hdist := 43, lens := ls } }
theorem test_cl_len : seen (fun t => t.inf.lens) (exec (.clLen 8#4) (someLens [])) = some [8#4] := by decide +kernel
/-- R200: after a length 5, extra bits 0b10 append five more; as the first symbol it is an error. -/
theorem test_cl_rep : seen (fun t => t.inf.lens) (exec (.clRep 2#2) (someLens [5#4])) = some (List.replicate 6 5#4) ∧
    seen (fun t => t.derr) (exec (.clRep 2#2) (someLens [])) = some 5#3 := by decide +kernel
/-- R201: extra bits 0b111 append ten zeros. -/
theorem test_cl_zrep3 : seen (fun t => t.inf.lens) (exec (.clZrep3 7#3) (someLens [])) = some (List.replicate 10 0#4) := by
  decide +kernel
/-- R202: extra bits 0b1010110 append 97 zeros; R203: no room for the last one. -/
theorem test_cl_zrep11 : seen (fun t => t.inf.lens.length) (exec (.clZrep11 0b1010110#7) (someLens [])) = some 97 ∧
    seen (fun t => (t.inf.lens.length, t.derr)) (exec (.clZrep11 0b1010110#7) (someLens (List.replicate 204 1#4))) =
      some (204, 5#3) := by decide +kernel
/-- R168's table: codes 010, 011, 100, 101, 110, 00, 1110, 1111. -/
theorem test_table_build :
    (List.range 8).map (hufTable [3#4, 3#4, 3#4, 3#4, 3#4, 2#4, 4#4, 4#4]).symbolBits =
      ["010", "011", "100", "101", "110", "00", "1110", "1111"].map (fun w => some (bits w)) := by decide +kernel
/-- R171 (c): lengths (1, 1, 1): bit 0 is symbol 0, bit 1 symbol 1. -/
theorem test_over_subscribed : decodeSymbol bitReader (hufTable [1#4, 1#4, 1#4]) [false] = .got 0 [] ∧
    decodeSymbol bitReader (hufTable [1#4, 1#4, 1#4]) [true] = .got 1 [] := by decide +kernel
/-- R216 at the end of the window: the write goes to 32767 and the pointer wraps. -/
theorem test_lit_wraps : seen (fun t => (t.win.wr, t.win.fill, t.win.mem))
    (exec (.lit 0xAB#8) { full with win := { mem := [], wr := 32767#15, fill := 32768, total := 65535 } }) =
    some (0#15, 32768, [(32767, 0xAB#8)]) := by decide +kernel
/-- R141: 'W' from the initial state gives 88 and 88, in mode 1; mode 0 has no Adler-32. -/
theorem test_lit_adler : seen (fun t => (t.adl.s1, t.adl.s2)) (exec (.lit 0x57#8) (at' .zlib .body [])) = some (88#16, 88#16) ∧
    seen (fun t => (t.adl.s1, t.adl.s2)) (exec (.lit 0x57#8) (at' .rawDeflate .body [])) = some (1#16, 0#16) := by
  decide +kernel
theorem test_eob : seen (fun t => (t.phase, t.runState)) (exec .eob (at' .rawDeflate .body [])) = some (.blockHdr, .busy) := by
  decide
/-- R259: `1B 03`, after the header `InvalidSymbol`. -/
theorem test_ll_inv : seen (fun t => t.derr) (step { at' .rawDeflate .body [0x03#8] with
    bsr := { acc := 3#32, cnt := 5 }, huf := { State.reset.huf with ll := hufTable fixedLitLengths } }) = some 7#3 := by
  decide +kernel
theorem test_dist_inv : seen (fun t => (t.derr, t.inf.dsym)) (exec (.distInv true) full) = some (7#3, 31#5) := by decide
/-- R221: a match as the first element of a stream fails; a distance of all that is there does not. -/
theorem test_dist_check : seen (fun t => t.derr) (exec .dist0 (at' .rawDeflate .dist [])) = some 6#3 ∧
    seen (fun t => t.phase) (exec .dist2 { full with win := { full.win with fill := 3 } }) = some .copy ∧
    seen (fun t => t.derr) (exec .dist3 { full with win := { full.win with fill := 3 } }) = some 6#3 := by decide
/-- R222 where the read address wraps: write pointer 0, distance 1. -/
theorem test_copy_wraps : seen (fun t => (t.offer, t.inf.crem)) (step { at' .rawDeflate .copy [] with
    win := { mem := [(32767, 0x61#8)], wr := 0#15, fill := 32768, total := 32768 }
    inf := { State.reset.inf with mdist := 1, crem := 9 } }) = some ([.byte 0x61#8], 8) := by decide +kernel
/-- R187: empty input to DEFLATE is `EndOfStream`, once the end is known; before that the block holds. -/
theorem test_empty_input : seen (fun t => (t.derr, t.runState)) (step { at' .rawDeflate .blockHdr [] with inEnd := true }) =
      some (4#3, .done) ∧
    holds (at' .rawDeflate .blockHdr []) := by decide +kernel
/-- R110: the pattern 11110 in a fixed block is `CorruptSymbol`. -/
theorem test_corrupt_dist : seen (fun t => t.derr) (step { at' .rawDeflate .dist [0x0F#8] with
    huf := { State.reset.huf with dt := hufTable fixedDistLengths } }) = some 3#3 := by decide +kernel

/-! ## zlib, one step each -/

/-- R302's and R303's examples: `78 9C`, `77 9C`, `78 9D`, `08 1D`. -/
theorem test_zlib_hdr : seen (fun t => (t.zerr, t.phase)) (step (at' .zlib .zlibHdr [0x78#8, 0x9C#8])) = some (0#3, .blockHdr) ∧
    seen (fun t => t.zerr) (step (at' .zlib .zlibHdr [0x77#8, 0x9C#8])) = some 2#3 ∧
    seen (fun t => t.zerr) (step (at' .zlib .zlibHdr [0x78#8, 0x9D#8])) = some 3#3 ∧
    seen (fun t => t.zerr) (step (at' .zlib .zlibHdr [0x08#8, 0x1D#8])) = some 0#3 := by decide +kernel
/-- R305: `78 20`, then four bytes, and the stream starts at offset 6. -/
theorem test_zlib_fdict : seen (fun t => t.phase) (step (at' .zlib .zlibHdr [0x78#8, 0x20#8])) = some .dictid ∧
    seen (fun t => (t.phase, t.pos)) (step { at' .zlib .dictid [1#8, 2#8, 3#8, 4#8, 5#8] with pos := 2 }) =
      some (.blockHdr, 6) := by decide +kernel
/-- R309: the trailer of "hello world" and one with a flipped byte. -/
theorem test_zlib_trailer :
    seen (fun t => (t.zerr, t.runState)) (exec (.zlibTrailer 0x1A0B045D#32)
      { at' .zlib .trailer [] with adl := { s1 := 0x045D#16, s2 := 0x1A0B#16 } }) = some (0#3, .done) ∧
    seen (fun t => (t.zerr, t.runState)) (exec (.zlibTrailer 0x1A0B045C#32)
      { at' .zlib .trailer [] with adl := { s1 := 0x045D#16, s2 := 0x1A0B#16 } }) = some (5#3, .done) := by decide +kernel
/-- R411: an error below the framer. -/
theorem test_deflate_error_in_zlib : seen (fun t => (t.perr, t.zerr, t.derr)) (exec (.llInv false) (at' .zlib .body [])) =
    some (0#4, 4#3, 7#3) := by decide

/-! ## PNG, one step each -/

/-- R321's two examples. -/
theorem test_png_sig :
    seen (fun t => t.perr) (step { at' .png .sig [0x89#8, 0x50#8, 0x4E#8, 0x47#8, 0x0D#8, 0x0A#8, 0x1A#8] with inEnd := true }) =
      some 1#4 ∧
    seen (fun t => t.perr) (step (at' .png .sig [0x89#8, 0x50#8, 0x4E#8, 0x47#8, 0x0D#8, 0x0A#8, 0x1A#8, 0x0B#8])) = some 2#4 := by
  decide +kernel
/-- R322's two examples, and the legal first chunk. -/
theorem test_first_chunk : seen (fun t => t.perr) (exec (.chunkIend 0#32) (at' .png .firstChunk [])) = some 3#4 ∧
    seen (fun t => t.perr) (exec (.chunkIhdr 12#32) (at' .png .firstChunk [])) = some 3#4 ∧
    seen (fun t => t.phase) (exec (.chunkIhdr 13#32) (at' .png .firstChunk [])) = some .ihdr := by decide
theorem test_second_ihdr : seen (fun t => t.perr) (exec (.chunkIhdr 13#32) (at' .png .chunk [])) = some 4#4 := by decide
theorem test_idat : seen (fun t => (t.chk.idatRem, t.phase)) (exec (.chunkIdat 0#32) (at' .png .chunk [])) = some (0, .zlibHdr) ∧
    seen (fun t => t.phase) (exec (.chunkIdat 7#32) { at' .png .chunk [] with
      chk := { State.reset.chk with runDone := true } }) = some .chunkSkip := by decide
/-- R332: exactly 4 bytes are skipped, whatever the length field says. -/
theorem test_iend : seen (fun t => (t.chk.clen, t.phase)) (exec (.chunkIend 99#32) (at' .png .chunk [])) = some (99#32, .iendCrc) ∧
    seen (fun t => (t.runState, t.fifo)) (step (at' .png .iendCrc [1#8, 2#8, 3#8, 4#8, 5#8])) = some (.done, [5#8]) := by
  decide +kernel
theorem test_anc : seen (fun t => (t.chk.runDone, t.phase)) (exec (.chunkAnc 1#32 0x74455874#32) { at' .png .chunk [] with
      chk := { State.reset.chk with runDone := true } }) = some (false, .chunkSkip) ∧
    seen (fun t => (t.phase, t.fifo)) (step { at' .png .chunkSkip [1#8, 2#8, 3#8, 4#8, 5#8, 6#8] with
      chk := { State.reset.chk with clen := 1#32 } }) = some (.chunk, [6#8]) := by decide +kernel
theorem test_crit : seen (fun t => t.perr) (exec (.chunkCrit 3#32 0x504C5445#32) (at' .png .chunk [])) = some 11#4 := by decide
/-- R350's payload: width 2, height 5, depth 8, colour 2: bpp 3, S 6. -/
theorem test_ihdr : seen (fun t => (t.ihd.bpp, t.ihd.S, t.ihd.valid, t.offer.length))
    (exec (.ihdrPayload 2#32 5#32 8#8 2#8 0#8 0#8 0#8) (at' .png .ihdr [])) = some (3, 6, true, 1) := by decide +kernel
/-- R351 to R357: the order of the checks and the seven pairs that are rejected. -/
theorem test_ihdr_checks :
    ihdrCheck { State.reset.ihd with width := 0xFFFFFFFF#32, colour := 3#8, depth := 8#8, ilace := 1#8 } = some .invalidWidth ∧
    ihdrCheck { State.reset.ihd with height := 0x80000000#32 } = some .invalidHeight ∧
    [(0#8, 1#8), (0#8, 2#8), (0#8, 4#8), (3#8, 1#8), (3#8, 2#8), (3#8, 4#8), (3#8, 8#8), (2#8, 4#8)].all
      (fun p => !colourDepthOk p.1 p.2) ∧
    ihdrCheck { State.reset.ihd with depth := 8#8, comp := 1#8, filt := 1#8 } = some .unsupportedCompressionMethod ∧
    ihdrCheck { State.reset.ihd with depth := 8#8, filt := 1#8, ilace := 1#8 } = some .unsupportedFilterMethod ∧
    ihdrCheck { State.reset.ihd with depth := 16#8, colour := 6#8, ilace := 1#8 } = some .unsupportedInterlaceMethod ∧
    ihdrCheck { State.reset.ihd with width := 0x7FFFFFFF#32, depth := 16#8, colour := 6#8 } = none := by decide +kernel

/-- A block in mode 2 with a complete filtered scanline. -/
def scan (bpp S : Nat) (row : Word) (prior pend : List Byte) : State :=
  { at' .png .trailer [] with
    ihd := { State.reset.ihd with bpp := bpp, S := S, valid := true }
    flt := { pend := pend, cur := [], prior := prior, row := row, ferr := false } }
/-- Row 4 is reconstructed; the last of its two transfers is offered. -/
def waiting : State :=
  { scan 1 2 4#32 [9#8, 9#8] [0#8, 1#8, 2#8] with
    offer := (scanXfers 4#32 [1#8, 2#8]).drop 1
    flt := { pend := [0#8, 1#8, 2#8], cur := [1#8, 2#8], prior := [9#8, 9#8], row := 4#32, ferr := false } }
/-- What a step leaves as the current scanline. -/
def row (s : State) : Option (List Byte) := seen (fun t => t.flt.cur) (step s)

/-- R374. -/
theorem test_flt_none : row (scan 1 3 0#32 [] [0#8, 0x0A#8, 0x14#8, 0x1E#8]) = some [0x0A#8, 0x14#8, 0x1E#8] := by decide +kernel
/-- R375's two examples. -/
theorem test_flt_sub : row (scan 1 3 0#32 [] [1#8, 0x0A#8, 0x0A#8, 0x0A#8]) = some [0x0A#8, 0x14#8, 0x1E#8] ∧
    row (scan 3 6 0#32 [] [1#8, 1#8, 2#8, 3#8, 1#8, 1#8, 0xFF#8]) = some [1#8, 2#8, 3#8, 2#8, 3#8, 2#8] := by decide +kernel
/-- R376; on the first scanline the data are copied. -/
theorem test_flt_up : row (scan 1 3 1#32 [0x0A#8, 0x14#8, 0x1E#8] [2#8, 1#8, 1#8, 1#8]) = some [0x0B#8, 0x15#8, 0x1F#8] ∧
    row (scan 1 3 0#32 [0x0A#8, 0x14#8, 0x1E#8] [2#8, 1#8, 1#8, 1#8]) = some [1#8, 1#8, 1#8] := by decide +kernel
/-- R377: a = b = 0xFF averages to 0xFF; 0x80 + floor(0xFF / 2) = 0xFF in the first column. -/
theorem test_flt_avg : predAvg 0xFF#8 0xFF#8 0#8 = 0xFF#8 ∧
    row (scan 1 2 1#32 [0xFF#8, 0xFF#8] [3#8, 0x80#8, 0#8]) = some [0xFF#8, 0xFF#8] := by decide +kernel
/-- R378's example, and R379's five. -/
theorem test_flt_paeth : row (scan 1 2 1#32 [0x0A#8, 0x14#8] [4#8, 1#8, 1#8]) = some [0x0B#8, 0x15#8] ∧
    paeth 10#8 20#8 10#8 = 20#8 ∧ paeth 20#8 10#8 10#8 = 20#8 ∧ paeth 10#8 20#8 30#8 = 10#8 ∧
    paeth 255#8 0#8 255#8 = 0#8 ∧ paeth 50#8 60#8 55#8 = 55#8 := by decide +kernel
/-- R380, R382. -/
theorem test_flt_inv : seen (fun t => (t.flt.ferr, t.flt.pend, t.flt.row, t.offer)) (step (scan 1 1 7#32 [9#8] [5#8, 1#8])) =
    some (true, [], 7#32, []) := by decide +kernel
/-- R384: with S = 0 a type byte alone is a scanline. -/
theorem test_empty_scanline : seen (fun t => (t.offer, t.flt.row)) (step (scan 1 0 0#32 [] [1#8])) =
    some ([.scan 0#32 none true true true], 0#32) := by decide +kernel
/-- R381, R64, R65: the row advances with the last transfer and not before it, nor while the port is not ready. -/
theorem test_scanline_advance :
    seen (fun t => (t.statusRow, t.flt)) (step { waiting with offer := scanXfers 4#32 [1#8, 2#8] }) =
      some (some 4#32, waiting.flt) ∧
    seen (fun t => (t.statusRow, t.flt.prior, t.flt.pend)) (step waiting) = some (some 5#32, [1#8, 2#8], []) ∧
    holds { waiting with slReady := false } ∧ waiting.statusRow = some 4#32 := by decide +kernel
/-- R330, R331: an empty IDAT chunk is passed over; another chunk ends the run. -/
theorem test_feeder :
    (match feederGet (at' .png .zlibHdr [0#8, 0#8, 0#8, 0#8, 0#8, 0#8, 0#8, 0#8, 0x49#8, 0x44#8, 0x41#8, 0x54#8,
        9#8, 9#8, 9#8, 9#8, 0#8, 0#8, 0#8, 2#8, 0x49#8, 0x44#8, 0x41#8, 0x54#8, 0x78#8]) with
      | .got b t => some (b, t.pos, t.chk.clen, t.chk.idatRem)
      | _ => none) = some (0x78#8, 25, 2#32, 1) ∧
    feederGet (at' .png .zlibHdr [0#8, 0#8, 0#8, 0#8, 0#8, 0#8, 0#8, 0#8, 0x49#8, 0x45#8, 0x4E#8, 0x44#8]) = .eof := by
  decide +kernel

/-! ## Reset, start, ports -/

/-- R451, R455, U12. -/
theorem test_start : seen (fun t => (t.mode, t.runState, t.phase)) (step { State.reset with host := [.start 2#2] }) =
      some (.png, .busy, .sig) ∧
    stop (step { State.reset with host := [.start 3#2] }) = some .startReservedMode ∧
    stop (step { at' .zlib .body [] with host := [.start 0#2] }) = some .startWhileBusy := by decide +kernel
/-- R450, R61. -/
theorem test_rst_and_input : seen (fun t => (t.runState, t.fifo)) (step { at' .zlib .body [1#8] with host := [.rst] }) =
      some (.idle, []) ∧
    seen (fun t => (t.fifo, t.pos)) (step { at' .zlib .body [1#8] with host := [.xfer 2#8] }) = some ([1#8, 2#8], 0) ∧
    stop (step { State.reset with host := [.xfer 2#8] }) = some .transferNotReady ∧
    stop (step { at' .zlib .body [] with host := [.xfer 2#8], inEnd := true }) = some .inputAfterEnd := by decide +kernel
/-- R61: the end flag is latched, and cleared by a start. -/
theorem test_end_flag : seen (fun t => t.inEnd) (step { at' .zlib .body [] with host := [.inEnd] }) = some true ∧
    seen (fun t => t.inEnd) (step { State.reset with inEnd := true, host := [.start 0#2] }) = some false := by decide +kernel
/-- R464. -/
theorem test_back_pressure :
    holds { at' .zlib .body [1#8] with offer := [.byte 7#8], obReady := false } ∧
    seen (fun t => (t.offer, t.log)) (step { at' .zlib .body [1#8] with offer := [.byte 7#8] }) = some ([], [.byte 7#8]) := by
  decide +kernel
/-- The opcode table's numbers: literal 0x41, IEND and BTYPE 3 run as the next element. -/
theorem test_table_words : decodeTableWord 16 0x41 = some (.lit 0x41#8) ∧ decodeTableWord 32 0x49454E44 = some (.chunkIend 0#32) ∧
    decodeTableWord 8 6 = some (.blkRsvd false) ∧
    seen (fun t => t.derr) (step (State.reset.withFetchWord 8 6)) = some 2#3 := by decide +kernel

/-! ## Witnesses: for each statement with hypotheses, a state that meets them, clause by clause -/

/-- What a value seen in an answer says. -/
theorem seen_some {α : Type} {f : State → α} {r : Res} {v : α} (h : seen f r = some v) : ∃ t, r = .next t ∧ f t = v := by
  cases r with
  | next t => exact ⟨t, rfl, Option.some.inj h⟩
  | fault _ => cases h
  | refused _ => cases h

/-- A block in mode 0 or 1 that meets `Ready`. -/
theorem ready_at (p : Phase) (bytes : List Byte) : Ready (at' .zlib p bytes) := ⟨rfl, rfl, rfl, rfl⟩

theorem witness_DecodedElementsAreWellFormed :
    decode bitReader tableCtx .bh (bits "110") = .got (.blkFixed true) [] ∧ 4 ≤ tableCtx.hclen ∧ tableCtx.hclen ≤ 19 ∧
    decode bitReader { tableCtx with hclen := 19 } .cll (List.replicate 57 true) = .got (.dynCll (List.replicate 19 7#3)) [] := by
  decide +kernel
theorem witness_DecodeConsumesTheEncoding :
    decode bitReader tableCtx .lls (bits "000000001") = .got .eob (bits "01") ∧
    ({ tableCtx with nlens := 1 } : Ctx).nlens ≠ 0 ∧
    decode bitReader { tableCtx with nlens := 1 } .cls (bits "1000011") = .got (.clRep 3#2) [] ∧
    (decode bitReader { tableCtx with nlens := 0 } .cls (bits "10001111") = .got (.clZrep3 7#3) [] ∧
      ∀ e, Instr.clZrep3 7#3 ≠ .clRep e) :=
  ⟨by decide +kernel, by decide, by decide +kernel, by decide +kernel, by decide⟩
/-- The fixed literal/length lengths and 32 lengths of 5 reach the bound of `Canonical`. -/
theorem witness_DecodeInvertsEncode : Canonical tableCtx.cl ∧ Canonical tableCtx.ll ∧ Canonical tableCtx.dt ∧
    (Instr.dist29 0x1FFF#13).wellFormed = true ∧
    encode tableCtx (.dist29 0x1FFF#13) = some (bits "111011111111111111") ∧
    (Instr.dynCll [0#3, 7#3, 0#3, 1#3]).wellFormed = true ∧ [0#3, 7#3, 0#3, 1#3].length = tableCtx.hclen ∧
    encode tableCtx (.dynCll [0#3, 7#3, 0#3, 1#3]) = some (bits "000111000100") ∧
    encode { tableCtx with nlens := 319 } (.clRep 1#2) = some (bits "1000010") :=
  ⟨⟨_, rfl, by decide +kernel⟩, ⟨_, rfl, by decide +kernel⟩, ⟨_, rfl, by decide +kernel⟩, by decide, by decide +kernel,
    by decide, by decide, by decide +kernel, by decide +kernel⟩
theorem witness_BuildAssignsCodes : [1#4, 0#4, 15#4][2]? = some 15#4 ∧ (∀ l ∈ [0#4, 0#4], l = 0#4) ∧
    15#4 ∈ [1#4, 0#4, 15#4] ∧ 15#4 ≠ 0#4 := by decide
theorem witness_DecodeSymbolTakesTheCode :
    decodeSymbol bitReader (hufTable [1#4, 1#4, 1#4]) (bits "10") = .got 1 (bits "0") ∧ ∀ l ∈ [0#4, 0#4], l = 0#4 := by
  decide +kernel
/-- In mode 2: the rest of an IDAT payload, an empty IDAT chunk, one with the byte `b`, and the byte 7 after it. -/
def inIdat (p : Phase) (a b : Byte) : State :=
  { at' .png p ([a] ++ idatChunks [([9#8, 9#8, 9#8, 9#8], []), ([8#8, 8#8, 8#8, 8#8], [b])] ++ [7#8]) with
    chk := { State.reset.chk with idatRem := 1 } }
theorem inIdat_holds (p : Phase) (a b : Byte) : FeederHolds (inIdat p a b) [a, b] [7#8] :=
  ⟨[a], _, rfl, rfl, by simp, rfl⟩

/-- Sixteen bits of two bytes, and one bit less: a residue of seven and one byte. -/
theorem witness_ReadsTakeStreamBits :
    (at' .zlib .body [1#8, 2#8]).mode ≠ .png ∧ AccumulatorBound (at' .zlib .body [1#8, 2#8]) ∧
    16 ≤ (at' .zlib .body [1#8, 2#8]).streamBits.length ∧
    AccumulatorBound { at' .zlib .body [1#8] with bsr := { acc := 127#32, cnt := 7 } } ∧
    ({ at' .zlib .body [1#8] with bsr := { acc := 127#32, cnt := 7 } } : State).streamBits.length < 16 :=
  ⟨by decide, ⟨by decide, by decide⟩, by decide, ⟨by decide, by decide⟩, by decide⟩
theorem witness_MixedReadsConsumeBytes :
    (at' .zlib .body [1#8, 2#8]).mode ≠ .png ∧ (at' .zlib .body [1#8, 2#8]).bsr = { acc := 0#32, cnt := 0 } ∧
    (∀ r ∈ [(true, 16), (false, 0)], r.2 ≤ if r.1 then 16 else 15) ∧
    (∀ r ∈ [(true, 1), (false, 15)], r.2 ≤ if r.1 then 16 else 15) ∧
    ([(true, 16), (false, 0)].map Prod.snd).sum ≤ 8 * (at' .zlib .body [1#8, 2#8]).fifo.length ∧
    (inIdat .body 1#8 2#8).mode = .png ∧ (inIdat .body 1#8 2#8).bsr = { acc := 0#32, cnt := 0 } ∧
    FeederHolds (inIdat .body 1#8 2#8) [1#8, 2#8] [7#8] ∧
    ([(true, 1), (false, 15)].map Prod.snd).sum ≤ 8 * [1#8, 2#8].length :=
  ⟨by decide, by decide, by decide, by decide, by decide, rfl, rfl, inIdat_holds _ _ _, by decide⟩
theorem witness_AlignDiscardsTheResidue :
    AccumulatorBound { State.reset with bsr := { acc := 127#32, cnt := 7 } } ∧ AccumulatorBound State.reset :=
  ⟨⟨by decide, by decide⟩, ⟨by decide, by decide⟩⟩
theorem witness_FetchIsListDecode :
    (at' .zlib .blockHdr [0xFE#8]).mode ≠ .png ∧ AccumulatorBound (at' .zlib .blockHdr [0xFE#8]) ∧
    decode bitReader (at' .zlib .blockHdr [0xFE#8]).ctx .bh (at' .zlib .blockHdr [0xFE#8]).streamBits =
      .got (.blkRsvd false) (bits "11111") ∧
    decode bitReader (at' .zlib .zlibHdr [0x78#8, 0x9C#8]).ctx .zh (bitsOfBytes (at' .zlib .zlibHdr [0x78#8, 0x9C#8]).fifo) =
      .got (.zlibHdr 0x78#8 0x9C#8) [] ∧
    decode bitReader (at' .png .sig (List.replicate 8 7#8)).ctx .sig (bitsOfBytes (List.replicate 8 7#8)) =
      .got (.pngSig 0x0707070707070707#64) [] ∧
    ((inIdat .blockHdr 0xFE#8 0xFF#8).mode = .png ∧ FeederHolds (inIdat .blockHdr 0xFE#8 0xFF#8) [0xFE#8, 0xFF#8] [7#8] ∧
      AccumulatorBound (inIdat .blockHdr 0xFE#8 0xFF#8) ∧
      decode bitReader (inIdat .blockHdr 0xFE#8 0xFF#8).ctx .bh
        ((inIdat .blockHdr 0xFE#8 0xFF#8).accBits ++ bitsOfBytes [0xFE#8, 0xFF#8]) =
        .got (.blkRsvd false) (bits "1111111111111")) ∧
    decode bitReader (inIdat .zlibHdr 0x78#8 0x9C#8).ctx .zh (bitsOfBytes [0x78#8, 0x9C#8]) =
      .got (.zlibHdr 0x78#8 0x9C#8) [] :=
  ⟨by decide, ⟨by decide, by decide⟩, by decide +kernel, by decide +kernel, by decide +kernel,
    ⟨rfl, inIdat_holds _ _ _, ⟨by decide, by decide⟩, by decide +kernel⟩, by decide +kernel⟩
theorem witness_StepRunsTheElement :
    (∃ t, Ready (at' .zlib .zlibHdr [0x78#8, 0x9C#8]) ∧ (at' .zlib .zlibHdr [0x78#8, 0x9C#8]).phase.fmt = some .zh ∧
      decode (readerOf .zh) (at' .zlib .zlibHdr [0x78#8, 0x9C#8]).ctx .zh (at' .zlib .zlibHdr [0x78#8, 0x9C#8]) =
        .got (.zlibHdr 0x78#8 0x9C#8) t) ∧
    ((scan 1 0 0#32 [] [1#8]).runState = .busy ∧ (scan 1 0 0#32 [] [1#8]).offer = [] ∧
      (scan 1 0 0#32 [] [1#8]).host = [] ∧ (scan 1 0 0#32 [] [1#8]).scanlineDue = true) ∧
    ({ State.reset with host := [.pass] } : State).host = .pass :: [] :=
  ⟨⟨_, ready_at _ _, rfl, rfl⟩, by decide, rfl⟩
theorem witness_FailedReadsLatchOrHold :
    (Ready { at' .zlib .blockHdr [] with inEnd := true } ∧ fetch .bh { at' .zlib .blockHdr [] with inEnd := true } = .eof) ∧
    (Ready { at' .zlib .trailer [1#8, 2#8, 3#8] with inEnd := true } ∧
      fetch .zt { at' .zlib .trailer [1#8, 2#8, 3#8] with inEnd := true } = .eof) ∧
    (Ready { at' .png .ihdr (List.replicate 12 0#8) with inEnd := true } ∧
      fetch .ih { at' .png .ihdr (List.replicate 12 0#8) with inEnd := true } = .eof) ∧
    (Ready { at' .zlib .dist [0x0F#8] with huf := { State.reset.huf with dt := hufTable fixedDistLengths } } ∧
      fetch .ds { at' .zlib .dist [0x0F#8] with huf := { State.reset.huf with dt := hufTable fixedDistLengths } } = .corrupt) ∧
    (Ready (at' .zlib .zlibHdr [0x78#8]) ∧ fetch .zh (at' .zlib .zlibHdr [0x78#8]) = .wait) ∧
    ((at' .zlib .zlibHdr [0x78#8]).inEnd = false ∧ (at' .zlib .zlibHdr [0x78#8]).mode ≠ .png) ∧
    ((at' .png .sig [0x89#8]).inEnd = false ∧ (at' .png .sig [0x89#8]).phase.fmt = some .sig) :=
  ⟨⟨⟨rfl, rfl, rfl, rfl⟩, by decide +kernel⟩, ⟨⟨rfl, rfl, rfl, rfl⟩, by decide +kernel⟩,
    ⟨⟨rfl, rfl, rfl, rfl⟩, by decide +kernel⟩, ⟨⟨rfl, rfl, rfl, rfl⟩, by decide +kernel⟩,
    ⟨⟨rfl, rfl, rfl, rfl⟩, by decide +kernel⟩, by decide, by decide⟩
theorem witness_BlockHeadersComplete : AccumulatorBound { State.reset with bsr := { acc := 127#32, cnt := 7 } } :=
  ⟨by decide, by decide⟩
theorem witness_StoredHeaderChecksLength : (0#16 : BitVec 16) = ~~~0xFFFF#16 ∧ (0xFFFF#16 : BitVec 16) = ~~~0#16 ∧
    0xFFFB#16 ≠ ~~~5#16 := by decide
theorem witness_StoredCopyDeliversRawBytes :
    ∃ s : State, Ready s ∧ s.mode ≠ .png ∧ s.phase = .storedCopy ∧ s.obReady = true ∧ s.inf.srem = [1#8, 2#8].length ∧
      s.fifo = [1#8, 2#8] ++ [3#8] :=
  ⟨{ at' .zlib .storedCopy [1#8, 2#8, 3#8] with inf := { State.reset.inf with srem := 2 } },
    ⟨rfl, rfl, rfl, rfl⟩, by decide, rfl, rfl, rfl, rfl⟩
/-- One length short of 300, and all 300. -/
theorem witness_CodeLengthsFillBothTables :
    ((someLens (List.replicate 298 1#4)).inf.lens ++ [1#4]).length < 257 + 43 ∧
    ((someLens (List.replicate 299 1#4)).inf.lens ++ [1#4]).length = 257 + 43 ∧
    (someLens []).inf.hlit = 257 ∧ (someLens []).inf.hdist = 43 := by decide +kernel
theorem witness_CodeLengthSymbols : (someLens [3#4, 5#4]).inf.lens.getLast? = some 5#4 ∧
    repeatOperand 5#4 (.clRep 3#2) = some (6, 5#4) ∧ ((someLens []).inf.lens = [] ∧ ∀ e, Instr.clZrep11 127#7 ≠ .clRep e) ∧
    repeatOperand 5#4 (.clZrep11 127#7) = some (138, 0#4) :=
  ⟨rfl, rfl, ⟨rfl, (fun _ h => (nomatch h))⟩, rfl⟩
theorem witness_LiteralEmitsOneByte : Memory.wf ([(0, 1#8), (32767, 2#8)] : Memory) = true ∧
    (at' .rawDeflate .body []).mode = .rawDeflate ∧ (at' .zlib .body []).mode = .zlib ∧ (at' .png .body []).mode = .png := by
  decide
theorem witness_EndOfBlockContinues : (at' .rawDeflate .body []).inf.bfinal = false ∧
    ({ at' .png .body [] with inf := { State.reset.inf with bfinal := true } } : State).inf.bfinal = true ∧
    Mode.zlib ≠ .rawDeflate ∧ Mode.png ≠ .rawDeflate := by decide
theorem witness_LengthSymbolsSetLength : lengthOperand (.len284 31#5) = some (284, 31) ∧ lengthOperand .len257 = some (257, 0) := by
  decide
/-- The largest distance, with that many bytes of history and with one less. -/
theorem witness_DistanceSymbolsStartTheCopy : distOperand (.dist29 0x1FFF#13) = some (29, 8191) ∧
    24577 + 8191 ≤ full.win.fill ∧ ({ full with win := { full.win with fill := 32767 } } : State).win.fill < 24577 + 8191 := by
  decide
/-- One byte of history, distance 1, a copy of nine. -/
theorem witness_MatchCopyRepeatsLastBytes : ∃ s : State, Ready s ∧ s.mode ≠ .png ∧ s.phase = .copy ∧ s.obReady = true ∧
    WindowCanonical s ∧ WindowCounters s ∧ WindowValid s ∧ s.inf.mdist = 1 ∧ 1 ≤ s.win.fill ∧ s.inf.crem = 9 := by
  refine ⟨{ at' .zlib .copy [] with win := { mem := [(0, 0x61#8)], wr := 1#15, fill := 1, total := 1 }, inf :=
      { State.reset.inf with mdist := 1, crem := 9 } }, ⟨rfl, rfl, rfl, rfl⟩, by decide, rfl, rfl, ⟨by decide, ?_⟩,
    ⟨by decide, by decide⟩, ?_, rfl, by decide, rfl⟩
  · intro a ha
    have h : (32768 : Nat) ≤ a := ha
    simp only [Memory.read]
    rw [if_neg (by omega), if_neg (by omega)]
  · intro d h1 h2
    have : d = 1 := Nat.le_antisymm h2 h1
    subst this
    decide
theorem witness_CopyPasses :
    (∃ s : State, Ready s ∧ s.phase = .copy ∧ s.inf.crem ≠ 0 ∧ s.windowBack s.inf.mdist = some 0x61#8) ∧
    (∃ s : State, Ready s ∧ s.phase = .copy ∧ s.inf.crem = 0) ∧
    (∃ s : State, Ready s ∧ s.phase = .storedCopy ∧ s.inf.srem ≠ 0 ∧ ∃ t, currentGet s = .got 7#8 t) ∧
    (∃ s : State, Ready s ∧ s.phase = .storedCopy ∧ s.inf.srem ≠ 0 ∧ currentGet s = .eof) ∧
    (∃ s : State, Ready s ∧ s.phase = .storedCopy ∧ s.inf.srem ≠ 0 ∧ currentGet s = .wait) ∧
    (∃ s : State, Ready s ∧ s.phase = .storedCopy ∧ s.inf.srem = 0 ∧ s.inf.bfinal = false) ∧
    (∃ s : State, Ready s ∧ s.phase = .storedCopy ∧ s.inf.srem = 0 ∧ s.inf.bfinal = true ∧ s.mode ≠ .rawDeflate) ∧
    (∃ s : State, Ready s ∧ s.phase = .storedCopy ∧ s.inf.srem = 0 ∧ s.inf.bfinal = true ∧ s.mode = .rawDeflate) :=
  ⟨⟨{ at' .png .copy [] with win := { mem := [(32767, 0x61#8)], wr := 0#15, fill := 32768, total := 32768 }, inf :=
        { State.reset.inf with mdist := 1, crem := 9 }, ihd := { State.reset.ihd with S := 4 } },
      ⟨rfl, rfl, by decide, rfl⟩, rfl, by decide, by decide⟩,
    ⟨at' .zlib .copy [], ⟨rfl, rfl, rfl, rfl⟩, rfl, rfl⟩,
    ⟨{ at' .zlib .storedCopy [7#8] with inf := { State.reset.inf with srem := 1 } }, ⟨rfl, rfl, rfl, rfl⟩, rfl, by decide, _, rfl⟩,
    ⟨{ at' .zlib .storedCopy [] with inf := { State.reset.inf with srem := 1 }, inEnd := true }, ⟨rfl, rfl, rfl, rfl⟩, rfl,
      by decide, rfl⟩,
    ⟨{ at' .zlib .storedCopy [] with inf := { State.reset.inf with srem := 1 } }, ⟨rfl, rfl, rfl, rfl⟩, rfl, by decide, rfl⟩,
    ⟨at' .zlib .storedCopy [], ⟨rfl, rfl, rfl, rfl⟩, rfl, rfl, rfl⟩,
    ⟨{ at' .zlib .storedCopy [] with inf := { State.reset.inf with bfinal := true } }, ⟨rfl, rfl, rfl, rfl⟩, rfl, rfl, rfl, by decide⟩,
    ⟨{ at' .rawDeflate .storedCopy [] with inf := { State.reset.inf with bfinal := true } }, ⟨rfl, rfl, rfl, rfl⟩, rfl, rfl, rfl, rfl⟩⟩
/-- For the three frame statements over all elements: elements that answer next. -/
theorem witness_OnlyLiteralsStore : (∀ b, Instr.eob ≠ .lit b) ∧ (∃ t, exec .eob full = .next t) ∧
    Instr.eob.fmt ≠ .zh ∧ Instr.eob.fmt ≠ .zd :=
  ⟨(fun _ h => (nomatch h)), ⟨_, rfl⟩, by decide, by decide⟩
theorem witness_ElementsKeepTheInput : ∃ t, exec (.lit 1#8) full = .next t := ⟨_, rfl⟩
theorem witness_RegistersHaveTheirWriters : ∃ t, exec .len285 full = .next t ∧
    (∀ w h d c m f l, Instr.len285 ≠ .ihdrPayload w h d c m f l) ∧ (∀ b, Instr.len285 ≠ .lit b) ∧
    (∀ len, Instr.len285 ≠ .chunkIdat len) ∧ Instr.len285.fmt ≠ .fs :=
  ⟨_, rfl, (fun _ _ _ _ _ _ _ h => (nomatch h)), (fun _ h => (nomatch h)), (fun _ h => (nomatch h)), by decide⟩
theorem witness_ZlibHeaderOutcomes : 0x77 % 16 ≠ 8 ∧ (0x78 % 16 = 8 ∧ (0x78 * 256 + 0x9D) % 31 ≠ 0) ∧
    ((0x78 * 256 + 0x9C) % 31 = 0 ∧ (0x9C#8).getLsbD 5 = false) ∧ ((0x78 * 256 + 0x20) % 31 = 0 ∧ (0x20#8).getLsbD 5 = true) := by
  decide
theorem witness_TrailerOutcomes : (2#32 ≠ (at' .zlib .trailer []).adl.s2 ++ (at' .zlib .trailer []).adl.s1) ∧
    (1#32 = (at' .zlib .trailer []).adl.s2 ++ (at' .zlib .trailer []).adl.s1 ∧ (at' .zlib .trailer []).mode = .zlib) ∧
    (1#32 = (at' .png .trailer []).adl.s2 ++ (at' .png .trailer []).adl.s1 ∧ (at' .png .trailer []).flt.ferr = false) ∧
    ({ at' .png .trailer [] with flt := { State.reset.flt with ferr := true } } : State).flt.ferr = true := by decide
theorem witness_FileStartsWithSignatureAndIhdr : (at' .png .firstChunk []).phase = .firstChunk ∧ 12#32 ≠ 13#32 ∧
    0x89504E470D0A1A0B#64 ≠ 0x89504E470D0A1A0A#64 := by decide
theorem witness_LoopChunks : (at' .png .chunk []).phase = .chunk ∧ (at' .png .chunk []).chk.runDone = false ∧
    ({ at' .png .chunk [] with chk := { State.reset.chk with runDone := true } } : State).chk.runDone = true := by decide
/-- The largest chunk length for the hold, and each skip with exactly its bytes. -/
theorem witness_SkipsAfterHeaders :
    (∀ p, ({ at' .png p (List.replicate 4 0#8) with ihd := { State.reset.ihd with S := 1 } } : State).fifo.length = 4) ∧
    (∀ p, Ready { at' .png p (List.replicate 4 0#8) with ihd := { State.reset.ihd with S := 1 } }) ∧
    State.reset.chk.clen.toNat + 4 = 4 ∧ State.reset.chk.idatRem + 4 = 4 ∧
    (List.replicate 4 0#8).length < ({ State.reset.chk with clen := 0xFFFFFFFF#32 } : Chk).clen.toNat + 4 :=
  ⟨fun _ => rfl, fun _ => ⟨rfl, rfl, rfl, rfl⟩, rfl, rfl, by decide⟩
theorem witness_FeederConcatenatesPayloads : ∃ s : State, s.chk.idatRem = [1#8].length ∧
    s.fifo = [1#8] ++ idatChunks [([9#8, 9#8, 9#8, 9#8], []), ([8#8, 8#8, 8#8, 8#8], [2#8, 3#8])] ++ [7#8] ∧
    ∀ c ∈ [(([9#8, 9#8, 9#8, 9#8], []) : List Byte × List Byte), ([8#8, 8#8, 8#8, 8#8], [2#8, 3#8])],
      c.1.length = 4 ∧ c.2.length < 2 ^ 32 :=
  ⟨{ at' .png .body ([1#8] ++ idatChunks [([9#8, 9#8, 9#8, 9#8], []), ([8#8, 8#8, 8#8, 8#8], [2#8, 3#8])] ++ [7#8]) with
      chk := { State.reset.chk with idatRem := 1 } }, rfl, rfl, by decide⟩
/-- After two empty IDAT chunks: a chunk of another type, eleven bytes, and a header with no payload byte. -/
theorem witness_FeederEnds :
    (∀ c ∈ [[1#8, 2#8, 3#8, 4#8], [0#8, 0#8, 0#8, 0#8]], c.length = 4) ∧
    ((at' .png .body (emptyIdatChunks [[1#8, 2#8, 3#8, 4#8], [0#8, 0#8, 0#8, 0#8]] ++ [0#8, 0#8, 0#8, 0#8] ++
        [0#8, 0#8, 0#8, 0#8] ++ [0x49#8, 0x45#8, 0x4E#8, 0x44#8] ++ [])).chk.idatRem = 0 ∧
      [0x49#8, 0x45#8, 0x4E#8, 0x44#8] ≠ [0x49#8, 0x44#8, 0x41#8, 0x54#8]) ∧
    (List.replicate 11 0#8).length < 12 ∧ 0 < 1 ∧ 2 ^ 32 - 1 < 2 ^ 32 ∧
    (({ State.reset.chk with idatRem := 1 } : Chk).idatRem ≠ 0 ∧ (at' .png .body []).fifo = []) := by decide
theorem witness_ImageHeaderAccepted : (0x7FFFFFFF#32).toNat ≤ 0x7FFFFFFF ∧ (6#8, 16#8, 8) ∈ pixelFormats ∧
    (0#8, 8#8, 1) ∈ pixelFormats := by decide
/-- Each kind, by a payload that passes every earlier check at its bound. -/
theorem witness_ImageHeaderRejected : 0x7FFFFFFF < (0x80000000#32).toNat ∧ ¬ 0x7FFFFFFF < (0x7FFFFFFF#32).toNat ∧
    (3#8, 8#8) ∉ pixelFormats.map (fun p => (p.1, p.2.1)) ∧ (6#8, 16#8) ∈ pixelFormats.map (fun p => (p.1, p.2.1)) ∧
    1#8 ≠ 0#8 := by decide
theorem witness_ColumnsAddThePredictor : 0 < 1 ∧
    [3#8, 6#8] = filterRow predSub 1 true [] [3#8, 3#8] [] ∧ 1 < [3#8, 3#8].length := by decide
theorem witness_FiltersDeliverTheScanline : predictorOf .fltPaeth = some paeth ∧
    (scan 1 2 1#32 [0x0A#8, 0x14#8] [4#8, 1#8, 1#8]).flt.pend = 4#8 :: [1#8, 1#8] ∧
    (scan 1 2 1#32 [0x0A#8, 0x14#8] [4#8, 1#8, 1#8]).ihd.S = 2 ∧ 0 < (scan 1 2 1#32 [0x0A#8, 0x14#8] [4#8, 1#8, 1#8]).ihd.bpp ∧
    (scan 1 2 1#32 [0x0A#8, 0x14#8] [4#8, 1#8, 1#8]).flt.prior.length = 2 ∧
    ((scan 1 0 0#32 [] [1#8]).ihd.S = 0 ∧ (scan 1 0 0#32 [] [1#8]).flt.row = 0#32) ∧
    ((scan 1 2 1#32 [0x0A#8, 0x14#8] [4#8, 1#8, 1#8]).runState = .busy ∧
      (scan 1 2 1#32 [0x0A#8, 0x14#8] [4#8, 1#8, 1#8]).host = [] ∧
      (scan 1 2 1#32 [0x0A#8, 0x14#8] [4#8, 1#8, 1#8]).offer = [] ∧
      (scan 1 2 1#32 [0x0A#8, 0x14#8] [4#8, 1#8, 1#8]).slReady = true) :=
  ⟨rfl, by decide, by decide, by decide, by decide, by decide, by decide⟩
theorem witness_ScanlineTransfers : [1#8] ≠ [] ∧ 0 < [1#8].length ∧
    ({ waiting with offer := scanXfers 4#32 [1#8, 2#8] } : State).runState = .busy ∧ waiting.host = [] ∧
    waiting.slReady = true ∧ waiting.flt.row = 4#32 ∧ 1 < (scanXfers 4#32 [1#8, 2#8]).length := by decide
theorem witness_ReconstructionInvertsFilter : 0 < 8 := by decide
/-- A BUSY block in mode 2 after an accepted header of one grey pixel, with the filter error latched. -/
def deaf : State :=
  { at' .png .chunkSkip [0#8, 0#8, 0#8, 0#8] with
    ihd := { State.reset.ihd with width := 1#32, height := 1#32, depth := 8#8, bpp := 1, S := 1, valid := true }
    flt := { State.reset.flt with ferr := true } }
theorem deaf_inv : Inv deaf where
  windowCanonical := ⟨rfl, fun _ _ => rfl⟩
  accumulatorBound := ⟨by decide, by decide⟩
  adlerReduced := ⟨by decide, by decide⟩
  windowCounters := ⟨by decide, by decide⟩
  windowValid := fun d h1 h2 => absurd (Nat.le_trans h1 h2) (by decide)
  copyLegal := (fun h => (nomatch h))
  countersFit := by constructor <;> decide
  dynamicHeader := ⟨fun h => (h.elim ((fun h => (nomatch h))) ((fun h => (nomatch h)))), (fun h => (nomatch h))⟩
  tablesBuilt := (fun h => (nomatch h))
  phaseOfMode := by unfold PhaseOfMode; decide
  errorsLegal := ⟨fun _ => rfl, .inl ⟨rfl, rfl, rfl⟩⟩
  offersOnlyBusy := fun _ => rfl
  portOfMode := (fun _ h => (nomatch h))
  headerLegal := ⟨(fun h => (nomatch h)), fun _ _ => rfl, (fun h => (nomatch h)), fun _ => by decide, fun _ => by decide⟩
  scanlineBuffers := ⟨by decide, fun _ => rfl, fun h => absurd rfl h, (fun _ _ _ _ _ h => (nomatch h)),
    (fun _ h => (nomatch h)), fun _ => rfl, fun _ => ⟨rfl, rfl, rfl, rfl⟩⟩
theorem witness_FilterErrorIsSticky : deaf.mode = .png ∧ deaf.flt.ferr = true ∧ Inv deaf ∧
    ∃ t, step deaf = .next t ∧ t.pos = 4 :=
  ⟨rfl, rfl, deaf_inv, seen_some (f := fun t => t.pos) (by decide +kernel)⟩
theorem witness_LatchWritesTheRegisters : ∀ m, (at' m .body []).mode = m := fun _ => rfl
theorem witness_DoneIsLeftByResetOrStart :
    ∃ s t : State, s.runState = .done ∧ s.host = [.obReady false] ∧ step s = .next t :=
  ⟨{ at' .zlib .body [] with runState := .done, host := [.obReady false] }, _, rfl, rfl, rfl⟩
theorem witness_ResetValues : ({ at' .png .body [1#8] with host := [.rst] } : State).host = .rst :: [] ∧
    ({ at' .png .body [1#8] with host := [.rst] } : State).runState = .busy := ⟨rfl, rfl⟩
theorem witness_StartBeginsARun : ({ State.reset with host := [.start 2#2] } : State).host = .start 2#2 :: [] ∧
    State.reset.runState ≠ .busy ∧ (at' .zlib .body []).runState = .busy ∧ 2#2 ≠ 3#2 := by decide
theorem witness_InputPort : ({ at' .zlib .body [] with host := [.xfer 1#8] } : State).host = .xfer 1#8 :: [] ∧
    ((at' .zlib .body []).runState = .busy ∧ (at' .zlib .body []).inEnd = false) ∧ State.reset.runState ≠ .busy ∧
    ({ at' .zlib .body [] with inEnd := true } : State).inEnd = true ∧
    ({ at' .zlib .body [] with host := [.inEnd] } : State).host = .inEnd :: [] := by decide
/-- The end flag is kept by a step of the block, set by `in_end`, cleared by reset. -/
theorem witness_InputPort_endFlag :
    (∃ t, step { at' .zlib .dictid [] with inEnd := true } = .next t ∧ t.inEnd = true) ∧
    (∃ t, step { at' .zlib .dictid [] with host := [.inEnd] } = .next t ∧ t.inEnd = true) ∧
    (∃ t, step { at' .zlib .dictid [] with inEnd := true, host := [.rst] } = .next t ∧ t.inEnd = false) :=
  ⟨seen_some (f := fun t => t.inEnd) (by decide +kernel), seen_some (f := fun t => t.inEnd) (by decide +kernel),
    seen_some (f := fun t => t.inEnd) (by decide +kernel)⟩
/-- DONE with and without an error, and BUSY: each output defined and undefined. -/
theorem witness_StatusPort : ({ State.reset with runState := .done, pos := 9 } : State).statusPos = some 9 ∧
    ({ State.reset with runState := .done, derr := 4#3 } : State).statusPos = none ∧
    ({ State.reset with runState := .done, derr := 4#3 } : State).statusErrors = some (0#4, 0#3, 4#3) ∧
    waiting.statusErrors = none ∧ waiting.statusRow = some 4#32 := by decide
theorem witness_BackPressureHolds :
    ({ at' .zlib .body [] with offer := [.byte 1#8], obReady := false } : State).obReady = false ∧
    ({ at' .png .body [] with offer := [.scan 0#32 none true true true], slReady := false } : State).slReady = false ∧
    (at' .zlib .body []).obReady = true ∧ (at' .zlib .body []).slReady = true ∧ (at' .zlib .body []).runState = .busy ∧
    (at' .zlib .body []).host = [] ∧
    waiting.offer = [.scan 4#32 (some 2#8) false true false] := by decide
theorem witness_OutputOrderIsKept :
    (∃ s t : State, BlockMoves s ∧ s.host = [] ∧ s.offer = [.byte 1#8] ∧ step s = .next t) ∧
    (∃ s t : State, BlockMoves s ∧ s.host = [.pass] ∧ s.offer = [.byte 1#8] ∧ step s = .next t) :=
  ⟨⟨{ at' .zlib .body [] with offer := [.byte 1#8] }, _, .inl rfl, rfl, rfl, rfl⟩,
    ⟨{ at' .zlib .body [] with offer := [.byte 1#8], host := [.pass] }, _, .inr ⟨[], rfl⟩, rfl, rfl, rfl⟩⟩
theorem witness_PositionCountsConsumption :
    (BlockMoves (at' .zlib .zlibHdr [0x78#8, 0x9C#8]) ∧ ∃ t, step (at' .zlib .zlibHdr [0x78#8, 0x9C#8]) = .next t ∧ t.pos = 2) ∧
    (BlockMoves { at' .zlib .zlibHdr [0x78#8, 0x9C#8] with host := [.pass] } ∧
      ∃ t, step { at' .zlib .zlibHdr [0x78#8, 0x9C#8] with host := [.pass] } = .next t ∧ t.pos = 2) :=
  ⟨⟨.inl rfl, seen_some (f := fun t => t.pos) (by decide +kernel)⟩,
    ⟨.inr ⟨[], rfl⟩, seen_some (f := fun t => t.pos) (by decide +kernel)⟩⟩

/-- A BUSY block at a zlib header, in full: it meets every clause of the invariant. -/
theorem witness_Inv : Inv (at' .zlib .zlibHdr [0x78#8, 0x9C#8]) where
  windowCanonical := ⟨rfl, fun _ _ => rfl⟩
  accumulatorBound := ⟨by decide, by decide⟩
  adlerReduced := ⟨by decide, by decide⟩
  windowCounters := ⟨by decide, by decide⟩
  windowValid := fun d h1 h2 => absurd (Nat.le_trans h1 h2) (by decide)
  copyLegal := (fun h => (nomatch h))
  countersFit := by constructor <;> decide
  dynamicHeader := ⟨fun h => (h.elim ((fun h => (nomatch h))) ((fun h => (nomatch h)))), (fun h => (nomatch h))⟩
  tablesBuilt := (fun h => (nomatch h))
  phaseOfMode := by unfold PhaseOfMode; decide
  errorsLegal := ⟨fun _ => rfl, .inl ⟨rfl, rfl, rfl⟩⟩
  offersOnlyBusy := fun _ => rfl
  portOfMode := (fun _ h => (nomatch h))
  headerLegal := ⟨fun _ => rfl, (fun h => (nomatch h)), fun _ => ⟨rfl, rfl⟩, (fun h => (nomatch h)), (fun h => (nomatch h))⟩
  scanlineBuffers := ⟨by decide, fun _ => rfl, fun h => absurd rfl h, (fun _ _ _ _ _ h => (nomatch h)),
    (fun _ h => (nomatch h)), fun _ => rfl, (fun h => (nomatch h))⟩

theorem witness_StepKeepsInvariant : ∃ s t, Inv s ∧ step s = .next t ∧ t.zlf.cmf = 0x78#8 :=
  let ⟨t, h, hp⟩ := seen_some (f := fun t => t.zlf.cmf) (r := step (at' .zlib .zlibHdr [0x78#8, 0x9C#8])) (v := 0x78#8)
    (by decide +kernel)
  ⟨_, t, witness_Inv, h, hp⟩
theorem witness_StepKeepsAccumulatorBound :
    ∃ t, AccumulatorBound { at' .zlib .blockHdr [1#8] with bsr := { acc := 127#32, cnt := 7 } } ∧
      step { at' .zlib .blockHdr [1#8] with bsr := { acc := 127#32, cnt := 7 } } = .next t :=
  ⟨_, ⟨by decide, by decide⟩, rfl⟩
theorem witness_StepKeepsWindow : ∃ s t, (WindowCanonical s ∧ WindowCounters s ∧ WindowValid s) ∧ step s = .next t :=
  let ⟨s, t, h, hs, _⟩ := witness_StepKeepsInvariant
  ⟨s, t, ⟨h.windowCanonical, h.windowCounters, h.windowValid⟩, hs⟩
theorem witness_StepsAreSafe : ∃ s, Inv s := ⟨_, witness_Inv⟩

end Sys2Proof.Tests
end

section
/-! PROOFS. The frame of the elements (R11, R21, R22, R66): no meaning touches the input, the mode, the surroundings
of the ports or the past transfers. Each shared operation keeps them, so every meaning made of these does. -/

namespace Sys2Proof.Machine

/-! ## What no meaning touches -/

/-- The input queue, `POS`, the end flag, `MODE`, the ready signals, the host's schedule and the log: what the
meaning of an element has no access to (R21, R22, R61, R66). -/
def State.surroundings (s : State) : List Byte × Nat × Bool × Mode × Bool × Bool × List HostEvent × List OutXfer :=
  (s.fifo, s.pos, s.inEnd, s.mode, s.obReady, s.slReady, s.host, s.log)

/-- From `s` to `t` the surroundings stay and output is offered at the end only. -/
def OnlyOffers (s t : State) : Prop := t.surroundings = s.surroundings ∧ s.offer <+: t.offer

/-- If an answer is a next state, only output was offered on the way to it. -/
def AnswerOnlyOffers (s : State) (r : Res) : Prop := ∀ t, r = .next t → OnlyOffers s t

theorem onlyOffers_iff (s t : State) : OnlyOffers s t ↔
    t.fifo = s.fifo ∧ t.pos = s.pos ∧ t.inEnd = s.inEnd ∧ t.mode = s.mode ∧ t.obReady = s.obReady ∧
    t.slReady = s.slReady ∧ t.host = s.host ∧ t.log = s.log ∧ ∃ new, t.offer = s.offer ++ new := by
  simp only [OnlyOffers, State.surroundings, Prod.mk.injEq, List.IsPrefix, and_assoc, eq_comm (b := t.offer)]

theorem OnlyOffers.of_same {s t : State} (hs : t.surroundings = s.surroundings) (ho : t.offer = s.offer) :
    OnlyOffers s t := ⟨hs, ho ▸ List.prefix_rfl⟩

theorem OnlyOffers.trans {s t u : State} (h : OnlyOffers s t) (h' : OnlyOffers t u) : OnlyOffers s u :=
  ⟨h'.1.trans h.1, h.2.trans h'.2⟩

/-! ## The shared operations -/

theorem onlyOffers_latch (k : ErrKind) (s : State) : OnlyOffers s (latch k s) :=
  .of_same (by simp [State.surroundings]) (by simp)

theorem onlyOffers_endBlock (s : State) : OnlyOffers s (endBlock s) :=
  .of_same (by simp [State.surroundings]) (by simp)

theorem onlyOffers_appendLens (ls : List (BitVec 4)) (s : State) : OnlyOffers s (appendLens ls s) :=
  .of_same (by simp [State.surroundings]) (by simp)

theorem onlyOffers_alignToByte (s : State) : OnlyOffers s (alignToByte s) :=
  .of_same (by simp [State.surroundings]) (by simp)

theorem onlyOffers_emit (b : Byte) (s : State) : OnlyOffers s (emit b s) := by
  refine ⟨by simp [State.surroundings], ?_⟩
  rw [emit_offer]
  split
  · exact List.prefix_rfl
  · exact List.prefix_append ..

theorem onlyOffers_acceptIhdr (s : State) : OnlyOffers s (acceptIhdr s) := ⟨rfl, List.prefix_append ..⟩

theorem onlyOffers_deliver (cur : List Byte) (s : State) : OnlyOffers s (deliver cur s) :=
  ⟨rfl, List.prefix_append ..⟩

/-! ## Answers -/

namespace AnswerOnlyOffers

theorem next {s t : State} (h : OnlyOffers s t) : AnswerOnlyOffers s (.next t) := fun _ e => by cases e; exact h

/-- A next state that differs from `s` only in other registers. -/
theorem same {s t : State} (hs : t.surroundings = s.surroundings) (ho : t.offer = s.offer) :
    AnswerOnlyOffers s (.next t) := next (.of_same hs ho)

theorem fault (s : State) (r : Fault) : AnswerOnlyOffers s (.fault r) := fun _ e => nomatch e

theorem refused (s : State) (r : Refusal) : AnswerOnlyOffers s (.refused r) := fun _ e => nomatch e

/-- An element that raises may first have written other registers. -/
theorem raise {s s' : State} (k : ErrKind) (hs : s'.surroundings = s.surroundings) (ho : s'.offer = s.offer) :
    AnswerOnlyOffers s (Machine.raise k s') := next ((OnlyOffers.of_same hs ho).trans (onlyOffers_latch k s'))

theorem ite {s : State} {c : Prop} [Decidable c] {a b : Res} (ha : AnswerOnlyOffers s a)
    (hb : AnswerOnlyOffers s b) : AnswerOnlyOffers s (if c then a else b) := by split <;> assumption

end AnswerOnlyOffers

/-! ## The meanings -/

theorem repeatLen_onlyOffers (count : Nat) (l : BitVec 4) (s : State) : AnswerOnlyOffers s (repeatLen count l s) :=
  .ite (.raise _ rfl rfl) (.next (onlyOffers_appendLens ..))

theorem execClRep_onlyOffers (e : BitVec 2) (s : State) : AnswerOnlyOffers s (execClRep e s) := by
  unfold execClRep
  split
  · exact .raise _ rfl rfl
  · exact repeatLen_onlyOffers _ _ s

theorem distanceSymbol_onlyOffers (dsym : BitVec 5) (mdist : Nat) (s : State) :
    AnswerOnlyOffers s (distanceSymbol dsym mdist s) := .ite (.raise _ rfl rfl) (.same rfl rfl)

theorem zlibHeader_onlyOffers (cmf flg : Byte) (s : State) : AnswerOnlyOffers s (zlibHeader cmf flg s) :=
  .ite (.raise _ rfl rfl) (.ite (.raise _ rfl rfl) (.ite (.same rfl rfl) (.same rfl rfl)))

theorem endFrame_onlyOffers {s s' : State} (hs : s'.surroundings = s.surroundings) (ho : s'.offer = s.offer) :
    AnswerOnlyOffers s (endFrame s') := by
  unfold endFrame
  split
  · exact .same hs ho
  · exact .same hs ho
  · exact .ite (.raise _ hs ho) (.same hs ho)

theorem notFirst_onlyOffers {s s' : State} {k : Res} (hs : s'.surroundings = s.surroundings)
    (ho : s'.offer = s.offer) (hk : AnswerOnlyOffers s k) : AnswerOnlyOffers s (notFirst s' k) :=
  .ite (.raise _ hs ho) hk

theorem execIhdrPayload_onlyOffers (w h : Word) (d c m f il : Byte) (s : State) :
    AnswerOnlyOffers s (execIhdrPayload w h d c m f il s) := by
  unfold execIhdrPayload
  dsimp only
  split
  · exact .raise _ rfl rfl
  · exact .ite (.next ((OnlyOffers.of_same rfl rfl).trans (onlyOffers_acceptIhdr _))) (.refused s _)

theorem reconstruct_onlyOffers (l u : Bool) (p : Byte → Byte → Byte → Byte) (s : State) :
    AnswerOnlyOffers s (reconstruct l u p s) := .ite (.next (onlyOffers_deliver ..)) (.fault s _)

theorem execBlkStored_onlyOffers (f : Bool) (s : State) : AnswerOnlyOffers s (execBlkStored f s) :=
  .next ((onlyOffers_alignToByte (blockHeader f 0#2 s)).trans (.of_same rfl rfl))

/-- No answer a meaning can give touches the surroundings; what it offers is added at the end (R11, R21, R22, R66). -/
theorem Effect.onlyOffers {s : State} {i : Instr} {r : Res} (h : Effect s i r) : AnswerOnlyOffers s r := by
  cases h with
  | blkStored f => exact execBlkStored_onlyOffers f s
  | blkFixed f => exact .same rfl rfl
  | blkDyn f => exact .same rfl rfl
  | blkRsvd f => exact .raise _ rfl rfl
  | storedHdr l n => exact .ite (.raise _ rfl rfl) (.same rfl rfl)
  | dynHdr l d c => exact .same rfl rfl
  | dynCll ls => exact .same rfl rfl
  | clLen l => exact .next (onlyOffers_appendLens ..)
  | clRep e => exact execClRep_onlyOffers e s
  | clZero _ count => exact repeatLen_onlyOffers count 0#4 s
  | lit b => exact .next (onlyOffers_emit b { s with inf := { s.inf with sym := b.zeroExtend 9 } })
  | eob => exact .next (onlyOffers_endBlock { s with inf := { s.inf with sym := 256#9 } })
  | llInv o => exact .raise _ rfl rfl
  | length => exact .same rfl rfl
  | dist _ dsym mdist => exact distanceSymbol_onlyOffers dsym mdist s
  | distInv o => exact .raise _ rfl rfl
  | zlib _ cmf flg => exact zlibHeader_onlyOffers cmf flg s
  | dictid id => exact .same rfl rfl
  | trailer a => exact .ite (.raise _ rfl rfl) (endFrame_onlyOffers rfl rfl)
  | sig b => exact .ite (.raise _ rfl rfl) (.same rfl rfl)
  | chunkIhdr l => exact .ite (.ite (.raise _ rfl rfl) (.same rfl rfl)) (.raise _ rfl rfl)
  | chunkIdat l => exact notFirst_onlyOffers rfl rfl (.ite (.same rfl rfl) (.same rfl rfl))
  | chunkIend l => exact notFirst_onlyOffers rfl rfl (.same rfl rfl)
  | chunkAnc l c => exact notFirst_onlyOffers rfl rfl (.same rfl rfl)
  | chunkCrit l c => exact notFirst_onlyOffers rfl rfl (.raise _ rfl rfl)
  | ihdr w h d c m f il => exact execIhdrPayload_onlyOffers w h d c m f il s
  | filter _ l u p => exact reconstruct_onlyOffers l u p s
  | fltInv b => exact .same rfl rfl

theorem exec_onlyOffers (i : Instr) (s : State) : AnswerOnlyOffers s (exec i s) := (exec_effect i s).onlyOffers

/-- Settles O29: the frame of `exec`, element by element. -/
theorem elementsKeepTheInput : Obligations.ElementsKeepTheInput :=
  fun s t i h => (onlyOffers_iff s t).mp (exec_onlyOffers i s t h)

end Sys2Proof.Machine
end

section
/-! PROOFS. Shared tools: a property of the next state an answer gives, and everything one pass of an operation can do
(R122). -/

namespace Sys2Proof.Machine

/-! ## A property of the next state -/

/-- If the answer is a next state, that state has the property `P`. -/
def Answers (P : State → Prop) (r : Res) : Prop := ∀ t, r = .next t → P t

namespace Answers

variable {P : State → Prop}

theorem next {t : State} (h : P t) : Answers P (.next t) := fun _ e => by cases e; exact h

theorem raise {s : State} {k : ErrKind} (h : P (latch k s)) : Answers P (Machine.raise k s) := next h

theorem fault (r : Fault) : Answers P (.fault r) := fun _ e => nomatch e

theorem refused (r : Refusal) : Answers P (.refused r) := fun _ e => nomatch e

theorem ite {c : Prop} [Decidable c] {a b : Res} (ha : c → Answers P a) (hb : ¬ c → Answers P b) :
    Answers P (if c then a else b) := by
  split
  · exact ha ‹_›
  · exact hb ‹_›

theorem notFirst {s : State} {k : Res} (hr : P (latch (.png .invalidFirstChunk) s)) 
    (hk : s.phase ≠ .firstChunk → Answers P k) : Answers P (Machine.notFirst s k) := ite (fun _ => raise hr) hk

end Answers

/-! ## Errors, by layer -/

/-- The number of the layer an error belongs to (R400). -/
def ErrKind.layer : ErrKind → Nat
  | .deflate _ => 0
  | .zlib _ => 1
  | .png _ => 2

theorem eofKind_layer {p : Phase} {f : Fmt} (h : p.fmt = some f) : (eofKind f).layer = p.layer := by
  cases p <;> cases h <;> rfl

/-! ## One pass of an operation -/

/-- Everything a pass of an operation that no element encodes can do when it answers a next state (R122). -/
inductive Pass (s t : State) : Prop where
  /-- The stored copy is over (R190). -/
  | storedEnd (hp : s.phase = .storedCopy) (ht : t = endBlock s)
  /-- A raw byte is copied (R190). -/
  | stored (hp : s.phase = .storedCopy) (b : Byte) (r : State) (hr : currentGet s = .got b r)
      (ht : t = emit b { r with inf := { r.inf with srem := r.inf.srem - 1 } })
  /-- The match copy is over (R222). -/
  | copyEnd (hp : s.phase = .copy) (ht : t = { s with phase := .body })
  /-- A byte of the window is copied (R222). -/
  | copied (hp : s.phase = .copy) (b : Byte)
      (ht : t = emit b { s with inf := { s.inf with crem := s.inf.crem - 1 } })
  /-- The bytes after a chunk header are skipped (R328, R333, R361). -/
  | toChunk (hp : s.phase = .ihdrCrc ∨ s.phase = .chunkSkip) (n : Nat) (hn : n ≤ s.fifo.length)
      (ht : t = { s with fifo := s.fifo.drop n, pos := s.pos + n, phase := .chunk })
  /-- The rest of the IDAT run is skipped (R329). -/
  | runEnd (hp : s.phase = .runEnd) (n : Nat) (hn : n ≤ s.fifo.length)
      (ht : t = { s with
        fifo := s.fifo.drop n, pos := s.pos + n
        chk := { s.chk with idatRem := 0, runDone := true }, phase := .chunk })
  /-- The CRC of IEND is skipped and the run has ended well (R332). -/
  | iend (hp : s.phase = .iendCrc) (n : Nat) (hn : n ≤ s.fifo.length)
      (ht : t = succeed { s with fifo := s.fifo.drop n, pos := s.pos + n })
  /-- The input has ended early (R410). -/
  | raised (k : ErrKind) (hk : k.layer ≤ s.phase.layer) (ht : t = latch k s)
  /-- A byte has not arrived (R465). -/
  | held (ht : t = s)

theorem skipThen_pass {n : Nat} {s : State} {k : State → State} (hl : s.phase.layer = 2)
    (hk : n ≤ s.fifo.length → Pass s (k { s with fifo := s.fifo.drop n, pos := s.pos + n })) :
    Answers (Pass s) (skipThen n s k) := by
  obtain ⟨hn, e⟩ | ⟨-, -, e⟩ | ⟨-, -, e⟩ := skipThen_cases n s k <;> rw [e]
  · exact .next (hk hn)
  · exact .next (.raised (.png .prematureEndOfFile) hl.ge rfl)
  · exact .next (.held rfl)

theorem storedCopy_pass {s : State} (hp : s.phase = .storedCopy) : Answers (Pass s) (storedCopy s) := by
  have hl : (ErrKind.deflate .endOfStream).layer ≤ s.phase.layer := Nat.zero_le _
  refine .ite (fun _ => .next (.storedEnd hp rfl)) (fun _ => ?_)
  split
  · exact .next (.stored hp _ _ ‹_› rfl)
  · exact .raise (.raised _ hl rfl)
  · exact .raise (.raised _ hl rfl)
  · exact .next (.held rfl)

theorem copyByte_pass {s : State} (hp : s.phase = .copy) : Answers (Pass s) (copyByte s) := by
  refine .ite (fun _ => .next (.copyEnd hp rfl)) (fun _ => ?_)
  split
  · exact .fault _
  · exact .next (.copied hp _ rfl)

theorem runOperation_pass {s : State} : Answers (Pass s) (runOperation s) := by
  unfold runOperation
  split
  next hp => exact storedCopy_pass hp
  next hp => exact copyByte_pass hp
  next hp => exact skipThen_pass (by rw [hp]; rfl) fun hn => .toChunk (.inl hp) _ hn rfl
  next hp => exact skipThen_pass (by rw [hp]; rfl) fun hn => .runEnd hp _ hn rfl
  next hp => exact skipThen_pass (by rw [hp]; rfl) fun hn => .toChunk (.inr hp) _ hn rfl
  next hp => exact skipThen_pass (by rw [hp]; rfl) fun hn => .iend hp _ hn rfl
  all_goals exact .next (.held rfl)

end Sys2Proof.Machine
end

section
/-! PROOFS. One rule of the invariant for each state operation: what a write of a register, a change of phase, the
latch, `Emit` and a delivery need so that `Inv` holds after them. -/

namespace Sys2Proof.Machine

variable {s t : State}

/-! ## Clauses carried over: the registers they speak of are as before -/

theorem CountersFit.same (h : CountersFit s) (hi : t.inf = s.inf := by rfl)
    (hc : t.chk.idatRem = s.chk.idatRem := by rfl) (hh : t.ihd = s.ihd := by rfl) : CountersFit t := by
  constructor <;> simp only [hi, hc, hh, h.srem, h.hlit, h.hdist, h.hclen, h.cll, h.lens, h.mlen, h.mdist, h.crem,
    h.idatRem, h.bpp, h.scanline]

theorem HeaderLegal.same (h : HeaderLegal s) (hp : t.phase.beforeHeader = s.phase.beforeHeader := by rfl)
    (hm : t.mode = s.mode := by rfl) (hh : t.ihd = s.ihd := by rfl) : HeaderLegal t := by
  obtain ⟨early, late, absent, checked, derived⟩ := h
  constructor <;> simpa only [hp, hm, hh]

theorem ScanlineBuffers.same (h : ScanlineBuffers s) (hf : t.flt = s.flt := by rfl) (hh : t.ihd = s.ihd := by rfl)
    (hm : t.mode = s.mode := by rfl) (ho : t.offer = s.offer := by rfl) : ScanlineBuffers t := by
  obtain ⟨pending, unused, prior, offered, lastEnds, early, latched⟩ := h
  constructor <;> simpa only [hf, hh, hm, ho]

theorem Inv.winOk (h : Inv s) : WinOk s.win where
  wf := h.windowCanonical.1
  out := h.windowCanonical.2
  fill := h.windowCounters.1
  wr := h.windowCounters.2
  valid := h.windowValid

theorem winOk_init {w : Win} (h : WinOk w) : WinOk { w with wr := 0#15, fill := 0, total := 0 } :=
  ⟨h.wf, h.out, rfl, rfl, fun d h1 (h2 : d ≤ 0) => by omega⟩

theorem accumulatorBound_empty (s : State) : AccumulatorBound { s with bsr := { acc := 0#32, cnt := 0 } } := by
  simp [AccumulatorBound]

/-! ## Phases and layers -/

/-- The phases that demand nothing of the registers. -/
def Phase.plain (p : Phase) : Bool := !p.inBody && decide (p ≠ .dynCll) && decide (p ≠ .codeLens)

theorem Phase.plain_iff {p : Phase} :
    p.plain = true ↔ p.inBody = false ∧ p ≠ .dynCll ∧ p ≠ .codeLens := by
  simp [Phase.plain, and_assoc]

theorem Phase.beforeHeader_of_inBody {p : Phase} (h : p.inBody = true) : p.beforeHeader = false := by
  cases p <;> simp_all only [Phase.inBody, Phase.beforeHeader, Bool.false_eq_true]

/-! ## The codes of the errors (R401 to R403) -/

theorem DeflErr.code_ne (d : DeflErr) : d.code ≠ 0#3 := by cases d <;> decide

theorem ZlibErr.code_legal (z : ZlibErr) : z.code ≠ 0#3 ∧ z.code.toNat ≤ 5 ∧ z.code ≠ 4#3 := by cases z <;> decide

theorem PngErr.code_legal (p : PngErr) : p.code ≠ 0#4 ∧ p.code.toNat ≤ 13 ∧ p.code ≠ 12#4 := by cases p <;> decide

/-- From registers without an error the latch makes a triple of R412, if the layer is one of the mode's. -/
theorem latch_legal {k : ErrKind} (he : s.errors = (0#4, 0#3, 0#3)) (hk : k.layer ≤ s.mode.number) :
    legalErrors s.mode (latch k s).perr (latch k s).zerr (latch k s).derr := by
  obtain ⟨hp, hz, hd⟩ : s.perr = 0#4 ∧ s.zerr = 0#3 ∧ s.derr = 0#3 := by simpa [State.errors] using he
  refine .inr ?_
  cases k with
  | deflate d => cases hm : s.mode <;> simp [latch, hm, hp, hz, d.code_ne, deflateErrorCode, zlibErrorCode]
  | zlib z =>
    cases hm : s.mode with
    | rawDeflate => simp [hm, ErrKind.layer, Mode.number] at hk
    | zlib => simp [latch, hm, hp, hd, z.code_legal]
    | png => simp [latch, hm, hd, z.code_legal, zlibErrorCode]
  | png p =>
    cases hm : s.mode with
    | rawDeflate => simp [hm, ErrKind.layer, Mode.number] at hk
    | zlib => simp [hm, ErrKind.layer, Mode.number] at hk
    | png => simp [latch, hz, hd, p.code_legal]

/-! ## A block at work -/

/-- A BUSY block that meets the invariant and offers nothing: where an element or a pass begins (R464). -/
structure AtWork (s : State) : Prop where
  inv : Inv s
  busy : s.runState = .busy
  drained : s.offer = []

namespace AtWork

/-! ## Writes of one unit's registers -/

/-- The registers of the stream: what each must be, whatever the phase. -/
theorem setStream (h : AtWork s) {b : Bsr} {w : Win} {a : Adl} {z : Zlf} (fifo : List Byte) (pos : Nat)
    (hb : AccumulatorBound { s with bsr := b }) (hw : WinOk w) (hf : s.win.fill ≤ w.fill ∨ s.phase ≠ .copy)
    (ha : a.s1.toNat < Config.adlerMod ∧ a.s2.toNat < Config.adlerMod) :
    AtWork { s with fifo := fifo, pos := pos, bsr := b, win := w, adl := a, zlf := z } := by
  have hc : s.phase = .copy → 1 ≤ s.inf.mdist ∧ s.inf.mdist ≤ w.fill := fun hp => by
    obtain ⟨h1, h2⟩ := h.inv.copyLegal hp
    exact ⟨h1, hf.elim h2.trans (absurd hp)⟩
  exact { h with inv := { h.inv with
    accumulatorBound := hb
    windowCanonical := ⟨hw.wf, hw.out⟩
    windowCounters := ⟨hw.fill, hw.wr⟩
    windowValid := hw.valid
    adlerReduced := ha
    copyLegal := hc
    countersFit := h.inv.countersFit.same
    headerLegal := h.inv.headerLegal.same
    scanlineBuffers := h.inv.scanlineBuffers.same } }

theorem setInput (h : AtWork s) (fifo : List Byte) (pos : Nat) : AtWork { s with fifo := fifo, pos := pos } :=
  h.setStream fifo pos h.inv.accumulatorBound h.inv.winOk (.inl le_rfl) h.inv.adlerReduced

theorem setBsr (h : AtWork s) {b : Bsr} (hb : AccumulatorBound { s with bsr := b }) : AtWork { s with bsr := b } :=
  h.setStream _ _ hb h.inv.winOk (.inl le_rfl) h.inv.adlerReduced

theorem setAdl (h : AtWork s) {a : Adl} (ha : a.s1.toNat < Config.adlerMod ∧ a.s2.toNat < Config.adlerMod) :
    AtWork { s with adl := a } := h.setStream _ _ h.inv.accumulatorBound h.inv.winOk (.inl le_rfl) ha

theorem setZlf (h : AtWork s) (z : Zlf) : AtWork { s with zlf := z } :=
  h.setStream _ _ h.inv.accumulatorBound h.inv.winOk (.inl le_rfl) h.inv.adlerReduced

/-- Outside a body the tables are free (R90). -/
theorem setHuf (h : AtWork s) (hp : s.phase.inBody = false) (u : Huf) : AtWork { s with huf := u } :=
  { h with inv := { h.inv with
      tablesBuilt := fun hb => absurd (hp.symm.trans hb) nofun
      countersFit := h.inv.countersFit.same
      headerLegal := h.inv.headerLegal.same
      scanlineBuffers := h.inv.scanlineBuffers.same } }

theorem setChk (h : AtWork s) {c : Chk} (hc : c.idatRem < 2 ^ 32) : AtWork { s with chk := c } :=
  { h with inv := { h.inv with
      countersFit := { h.inv.countersFit with idatRem := hc }
      headerLegal := h.inv.headerLegal.same
      scanlineBuffers := h.inv.scanlineBuffers.same } }

/-- The registers of the block decoder, with what the phase demands of them. -/
theorem setInf (h : AtWork s) {j : Inf} (hf : CountersFit { s with inf := j }) (hc : CopyLegal { s with inf := j })
    (hd : DynamicHeader { s with inf := j }) : AtWork { s with inf := j } :=
  { h with inv := { h.inv with
      countersFit := hf
      copyLegal := hc
      dynamicHeader := hd
      headerLegal := h.inv.headerLegal.same
      scanlineBuffers := h.inv.scanlineBuffers.same } }

/-- A read consumes input and writes `BSR` and `CHK` within their bounds (R25, R33). -/
theorem consume (h : AtWork s) (hc : ConsumesSome s t) : AtWork t := by
  obtain ⟨n, hn⟩ := hc
  have hb := hn.bound h.inv.accumulatorBound
  have hi := hn.idat h.inv.countersFit.idatRem
  rw [hn.frame]
  exact (h.setStream (s.fifo.drop n) (s.pos + n) hb h.inv.winOk (.inl le_rfl) h.inv.adlerReduced).setChk hi

/-- Before an image header is accepted its fields are free (R34). -/
theorem setIhd (h : AtWork s) (hv : s.ihd.valid = false) {i : Ihd} (hi : i.valid = false) (hb : i.bpp = s.ihd.bpp)
    (hS : i.S = s.ihd.S) : AtWork { s with ihd := i } := by
  have hl := h.inv.headerLegal
  have hf := h.inv.scanlineBuffers
  exact { h with inv := { h.inv with
    countersFit := { h.inv.countersFit with
      bpp := by rw [hb]; exact h.inv.countersFit.bpp
      scanline := by rw [hS]; exact h.inv.countersFit.scanline }
    headerLegal := {
      early := fun _ => hi
      late := fun hm hp => absurd (hv.symm.trans (hl.late hm hp)) nofun
      absent := fun _ => by rw [hb, hS]; exact hl.absent hv
      checked := fun hv' => absurd (hi.symm.trans hv') nofun
      derived := fun hv' => absurd (hi.symm.trans hv') nofun }
    scanlineBuffers := { hf with
      pending := by rw [hS]; exact hf.pending
      prior := by rw [hS]; exact hf.prior
      offered := by rw [hS]; exact hf.offered
      early := fun _ => hf.early hv
      latched := fun he => absurd (hv.symm.trans (hf.latched he).2.1) nofun } } }

/-! ## Changes of phase -/

/-- The next phase is on the same side of the image header, its layer is in use, and what it demands of the registers
is there. -/
theorem setPhase (h : AtWork s) {p : Phase} (hh : p.beforeHeader = s.phase.beforeHeader)
    (hl : p.layer ≤ s.mode.number) (hc : CopyLegal { s with phase := p }) (hd : DynamicHeader { s with phase := p })
    (ht : TablesBuilt { s with phase := p }) : AtWork { s with phase := p } :=
  { h with inv := { h.inv with
      copyLegal := hc
      dynamicHeader := hd
      tablesBuilt := ht
      phaseOfMode := hl
      countersFit := h.inv.countersFit.same
      headerLegal := h.inv.headerLegal.same hh
      scanlineBuffers := h.inv.scanlineBuffers.same } }

/-- In the phase `q` every layer up to its own is in use (R452). -/
theorem layer_le (h : AtWork s) {q : Phase} (hq : s.phase = q) {n : Nat} (hn : n ≤ q.layer) : n ≤ s.mode.number :=
  hn.trans (hq ▸ h.inv.phaseOfMode)

/-- From the phase `q` to a phase that demands nothing of the registers. -/
theorem goto (h : AtWork s) {p q : Phase} (hq : s.phase = q) (hp : p.plain = true)
    (hh : p.beforeHeader = q.beforeHeader) (hl : p.layer ≤ s.mode.number) : AtWork { s with phase := p } := by
  obtain ⟨hb, hd, hc⟩ := Phase.plain_iff.mp hp
  exact h.setPhase (hq ▸ hh) hl (fun e => by subst e; exact nomatch hb)
    ⟨fun e => e.elim (absurd · hd) (absurd · hc), fun e => absurd e hc⟩ (fun e => absurd (hb.symm.trans e) nofun)

/-- From one phase of a body to another phase of a body other than the copy. -/
theorem gotoBody (h : AtWork s) {p : Phase} (hq : s.phase.inBody = true) (hp : p = .body ∨ p = .dist) :
    AtWork { s with phase := p } := by
  have hh : s.phase.beforeHeader = false := Phase.beforeHeader_of_inBody hq
  have ht := h.inv.tablesBuilt hq
  rcases hp with rfl | rfl <;>
    exact h.setPhase hh.symm (Nat.zero_le _) nofun ⟨fun e => e.elim nofun nofun, nofun⟩ fun _ => ht

/-! ## Ends -/

/-- The latch: a legal triple of R412, and nothing else changes (R430). -/
theorem latched (h : AtWork s) {k : ErrKind} (hk : k.layer ≤ s.mode.number) : Inv (latch k s) := by
  have he := latch_legal (h.inv.errorsLegal.1 (by simp [h.busy])) hk
  rw [latch_frame]
  exact { h.inv with
    errorsLegal := ⟨fun hn => absurd rfl hn, he⟩
    offersOnlyBusy := fun _ => h.drained
    countersFit := h.inv.countersFit.same
    headerLegal := h.inv.headerLegal.same
    scanlineBuffers := h.inv.scanlineBuffers.same }

theorem succeeded (h : AtWork s) : Inv (succeed s) :=
  { h.inv with
    errorsLegal := ⟨fun hn => absurd rfl hn, h.inv.errorsLegal.2⟩
    offersOnlyBusy := fun _ => h.drained
    countersFit := h.inv.countersFit.same
    headerLegal := h.inv.headerLegal.same
    scanlineBuffers := h.inv.scanlineBuffers.same }

end AtWork
end Sys2Proof.Machine
end

section
/-! PROOFS. The operations that end an element or a pass keep the invariant: `Emit`, the ends of blocks, the accepted
image header, the delivery of a scanline and the drain of the output. -/

namespace Sys2Proof.Machine

variable {s t : State}

/-! ## Offers -/

/-- A byte is offered on the byte-output port (R62). -/
theorem AtWork.offerByte (h : AtWork s) (hm : s.mode ≠ .png) (b : Byte) :
    Inv { s with offer := s.offer ++ [.byte b] } := by
  have hf := h.inv.scanlineBuffers
  rw [h.drained]
  exact { h.inv with
    offersOnlyBusy := fun hn => absurd h.busy hn
    portOfMode := by simpa [PortOfMode, OutXfer.ofMode] using hm
    countersFit := h.inv.countersFit.same
    headerLegal := h.inv.headerLegal.same
    scanlineBuffers := { hf with
      offered := by simp
      lastEnds := by simp
      latched := fun he => absurd (hf.latched he).1 hm } }

/-- A byte is pushed into a scanline that is not complete (R371, R382). -/
theorem AtWork.pushed (h : AtWork s) (hm : s.mode = .png) (hp : s.phase.beforeHeader = false)
    (hd : s.scanlineDue = false) (b : Byte) : Inv (fltPush b s) := by
  have hf := h.inv.scanlineBuffers
  have hv := h.inv.headerLegal.late hm hp
  have hlt : s.flt.pend.length < s.ihd.S + 1 :=
    lt_of_le_of_ne hf.pending (by simpa [State.scanlineDue, hm] using hd)
  unfold fltPush
  split
  · exact h.inv
  · rename_i he
    exact { h.inv with
      countersFit := h.inv.countersFit.same
      headerLegal := h.inv.headerLegal.same
      scanlineBuffers := { hf with
        pending := by simpa using hlt
        unused := fun hn => absurd hm hn
        early := fun hn => absurd (hn.symm.trans hv) nofun
        latched := fun hn => absurd hn he } }

/-- `Emit` in the phases that produce bytes (R216). -/
theorem AtWork.emitted (h : AtWork s) (hp : s.phase.beforeHeader = false) (hd : s.scanlineDue = false) (b : Byte) :
    Inv (emit b s) := by
  have hfill : s.win.fill ≤ (s.win.push b).fill := by
    have := h.inv.windowCounters.1
    simp only [push_fill]
    omega
  have hw := winOk_push b s.win h.inv.winOk
  have ha := adlerUpdate_reduced b s.adl
  have hplain : AtWork { s with win := s.win.push b } :=
    h.setStream _ _ h.inv.accumulatorBound hw (.inl hfill) h.inv.adlerReduced
  unfold emit
  split
  next hm => exact hplain.offerByte (by simp [hm]) b
  next hm => exact (hplain.setAdl ha).offerByte (by simp [hm]) b
  next hm => exact (hplain.setAdl ha).pushed hm hp hd b

/-! ## Ends of blocks -/

theorem AtWork.blockEnded (h : AtWork s) (hp : s.phase.beforeHeader = false) : Inv (endBlock s) := by
  have trailer (hl : 1 ≤ s.mode.number) : Inv { s with phase := .trailer } :=
    (h.goto (p := .trailer) rfl rfl hp.symm hl).inv
  unfold endBlock endStream
  split
  · split
    next => exact h.succeeded
    next hm => exact trailer (hm ▸ by decide)
    next hm => exact trailer (hm ▸ by decide)
  · exact (h.goto (p := .blockHdr) rfl rfl hp.symm (Nat.zero_le _)).inv

/-! ## The image header -/

theorem samplesPerPixel_le (colour : Byte) : samplesPerPixel colour ≤ 4 := by
  unfold samplesPerPixel
  split_ifs <;> omega

/-- What the six checks leave of the header: the limits of `bpp` and `S` (R351, R353, R358, R359). -/
theorem ihdrCheck_bounds {i : Ihd} (h : ihdrCheck i = none) :
    bytesPerPixel i.colour i.depth ≤ 8 ∧ i.width.toNat * bytesPerPixel i.colour i.depth < 2 ^ 35 := by
  unfold ihdrCheck at h
  split_ifs at h with hw hh hc
  have hdepth : i.depth = 8#8 ∨ i.depth = 16#8 := by
    simp only [colourDepthOk, Bool.not_eq_false, Bool.and_eq_true, Bool.or_eq_true, decide_eq_true_eq] at hc
    exact hc.2
  have hbpp : bytesPerPixel i.colour i.depth ≤ 8 := by
    have := samplesPerPixel_le i.colour
    rcases hdepth with e | e <;> simp [bytesPerPixel, e] <;> omega
  have := Nat.mul_le_mul (Nat.not_lt.mp hw) hbpp
  exact ⟨hbpp, by omega⟩

/-- A checked image header is accepted: fresh scanline buffers and the IHDR event (R358 to R361). -/
theorem AtWork.accepted (h : AtWork s) (hp : s.phase = .ihdr) (hc : ihdrCheck s.ihd = none) : Inv (acceptIhdr s) := by
  have hm : s.mode = .png := by
    have := h.layer_le hp le_rfl
    cases hm : s.mode <;> simp [hm, Phase.layer, Mode.number] at this ⊢
  obtain ⟨hbpp, hS⟩ := ihdrCheck_bounds hc
  have hport : PortOfMode (acceptIhdr s) := by
    simpa [PortOfMode, acceptIhdr, h.drained, ihdrEvent, OutXfer.ofMode] using hm
  exact { h.inv with
    copyLegal := nofun
    dynamicHeader := ⟨fun e => e.elim nofun nofun, nofun⟩
    tablesBuilt := nofun
    phaseOfMode := by simp [PhaseOfMode, acceptIhdr, hm, Phase.layer, Mode.number]
    offersOnlyBusy := fun hn => absurd h.busy hn
    portOfMode := hport
    countersFit := { h.inv.countersFit with bpp := hbpp, scanline := hS }
    headerLegal := ⟨nofun, fun _ _ => rfl, nofun, fun _ => hc, fun _ => ⟨rfl, rfl⟩⟩
    scanlineBuffers := {
      pending := Nat.zero_le _
      unused := fun _ => rfl
      prior := fun hn => absurd rfl hn
      offered := by simp [acceptIhdr, h.drained, ihdrEvent]
      lastEnds := by simp [acceptIhdr, h.drained]
      early := fun _ => rfl
      latched := nofun } }

/-! ## Scanlines -/

/-- A complete scanline is in mode 2, after an accepted header, with no error latched (R371, R382). -/
theorem AtWork.due (h : AtWork s) (hd : s.scanlineDue = true) :
    s.mode = .png ∧ s.flt.pend.length = s.ihd.S + 1 ∧ s.ihd.valid = true ∧ s.flt.ferr = false := by
  obtain ⟨hm, hl⟩ : s.mode = .png ∧ s.flt.pend.length = s.ihd.S + 1 := by simpa [State.scanlineDue] using hd
  have hpend : s.flt.pend ≠ [] := List.ne_nil_of_length_eq_add_one hl
  refine ⟨hm, hl, ?_, ?_⟩
  · by_contra hv
    exact hpend (h.inv.scanlineBuffers.early (by simpa using hv))
  · by_contra he
    exact hpend (h.inv.scanlineBuffers.latched (by simpa using he)).2.2.1

theorem rowOf_length (pred : Byte → Byte → Byte → Byte) (hl : s.flt.pend.length = s.ihd.S + 1) :
    (rowOf pred s).length = s.ihd.S := by
  simp [rowOf, filterRow_length, hl]

theorem AtWork.delivered (h : AtWork s) (hd : s.scanlineDue = true) {cur : List Byte} (hcur : cur.length = s.ihd.S) :
    Inv (deliver cur s) := by
  obtain ⟨hm, hl, hv, he⟩ := h.due hd
  have hf := h.inv.scanlineBuffers
  obtain ⟨init, x, hx, -, hinit⟩ := scanXfers_ends s.flt.row cur
  have ho : (deliver cur s).offer = scanXfers s.flt.row cur := by simp [deliver, h.drained]
  exact { h.inv with
    offersOnlyBusy := fun hn => absurd h.busy hn
    portOfMode := fun y hy => by
      obtain ⟨data, f, l, e, rfl⟩ := scanXfers_scan _ _ y (ho ▸ hy)
      exact hm
    countersFit := h.inv.countersFit.same
    headerLegal := h.inv.headerLegal.same
    scanlineBuffers := { hf with
      offered := fun row data f l e hy => by
        obtain ⟨data', f', l', e', hy'⟩ := scanXfers_scan _ _ _ (ho ▸ hy)
        cases hy'
        exact ⟨rfl, hcur⟩
      lastEnds := by rw [ho, hx, List.dropLast_concat]; exact hinit
      latched := fun hn => absurd (he.symm.trans hn) nofun } }

/-- The filter error is latched and the scanline dropped (R380). -/
theorem AtWork.filterError (h : AtWork s) (hd : s.scanlineDue = true) :
    Inv { s with flt := { s.flt with pend := [], ferr := true } } := by
  obtain ⟨hm, -, hv, -⟩ := h.due hd
  exact { h.inv with
    countersFit := h.inv.countersFit.same
    headerLegal := h.inv.headerLegal.same
    scanlineBuffers := { h.inv.scanlineBuffers with
      pending := Nat.zero_le _
      unused := fun _ => rfl
      early := fun _ => rfl
      latched := fun _ => ⟨hm, hv, rfl, h.drained⟩ } }

/-! ## The drain -/

/-- An accepted transfer leaves the offer; the last one of a scanline event advances the row (R464, R381). -/
theorem Inv.drained (h : Inv s) (hb : s.runState = .busy) {x : OutXfer} {rest : List OutXfer}
    (ho : s.offer = x :: rest) : Inv (drain x rest s) := by
  have hf := h.scanlineBuffers
  have hport : ∀ y ∈ rest, y.ofMode s.mode := fun y hy => h.portOfMode y (by simp [ho, hy])
  have hferr : s.flt.ferr ≠ true := fun he => by simpa [ho] using (hf.latched he).2.2.2
  have hlast : ∀ y ∈ rest.dropLast, y.endsScanline = false := fun y hy => by
    cases rest with
    | nil => exact nomatch hy
    | cons z zs => exact hf.lastEnds y (by simp [ho, hy])
  obtain ⟨-, e⟩ | ⟨-, -, e⟩ | ⟨-, hx, e⟩ := drain_cases x rest s <;> rw [e]
  · exact h
  · exact { h with
      offersOnlyBusy := fun hn => absurd hb hn
      portOfMode := hport
      countersFit := h.countersFit.same
      headerLegal := h.headerLegal.same
      scanlineBuffers := { hf with
        offered := fun row data f l e hy => hf.offered row data f l e (by simp [ho, hy])
        lastEnds := hlast
        latched := fun he => absurd he hferr } }
  · have hrest : rest = [] := by
      by_contra hne
      have := hf.lastEnds x (by rw [ho, List.dropLast_cons_of_ne_nil hne]; exact List.mem_cons_self)
      exact nomatch hx.symm.trans this
    have hcur : s.flt.cur.length = s.ihd.S := by
      cases x with
      | scan row data f l last => exact (hf.offered row data f l last (by simp [ho])).2
      | byte b => exact nomatch hx
      | ihdr => exact nomatch hx
    subst hrest
    exact { h with
      offersOnlyBusy := fun hn => absurd hb hn
      portOfMode := hport
      countersFit := h.countersFit.same
      headerLegal := h.headerLegal.same
      scanlineBuffers := {
        pending := Nat.zero_le _
        unused := fun _ => rfl
        prior := fun _ => hcur
        offered := nofun
        lastEnds := nofun
        early := fun _ => rfl
        latched := fun he => absurd he hferr } }

end Sys2Proof.Machine
end

section
/-! PROOFS. Every meaning, every pass and every action of the host keeps the invariant; so does every step. -/

namespace Sys2Proof.Machine

variable {s t : State}

/-! ## The phase an element is performed in -/

theorem phase_of_fmt {p : Phase} {f : Fmt} (h : p.fmt = some f) (hf : f ≠ .ch) : p = phaseOf f := by
  cases p <;> cases h <;> simp [phaseOf] at hf ⊢

theorem phase_of_chunk {p : Phase} (h : p.fmt = some .ch) : p = .firstChunk ∨ p = .chunk := by
  cases p <;> simp [Phase.fmt] at h ⊢

namespace AtWork

/-- An error of a layer up to that of the phase `q`. -/
theorem raised (h : AtWork s) {q : Phase} (hq : s.phase = q) {k : ErrKind} (hk : k.layer ≤ q.layer) :
    Answers Inv (raise k s) := .raise (h.latched (h.layer_le hq hk))

/-! ## Registers of the block decoder that no phase demands anything of -/

/-- The registers of the block decoder, outside the copy and the dynamic header. -/
theorem setInfIn (h : AtWork s) {q : Phase} (hq : s.phase = q) (j : Inf) (hf : CountersFit { s with inf := j })
    (hc : q ≠ .copy) (hd : q ≠ .dynCll) (hl : q ≠ .codeLens) : AtWork { s with inf := j } :=
  h.setInf hf (fun e => absurd (hq.symm.trans e) hc)
    ⟨fun e => e.elim (fun e => absurd (hq.symm.trans e) hd) (fun e => absurd (hq.symm.trans e) hl),
      fun e => absurd (hq.symm.trans e) hl⟩

/-! ## Block level -/

theorem blockHeader (h : AtWork s) (hp : s.phase = .blockHdr) (f : Bool) (b : BitVec 2) :
    AtWork (Machine.blockHeader f b s) := h.setInfIn hp _ { h.inv.countersFit with } nofun nofun nofun

theorem alignToByte (h : AtWork s) : AtWork (Machine.alignToByte s) := by
  unfold Machine.alignToByte
  split
  · exact h.setBsr (accumulatorBound_empty s)
  · exact h

/-- A body begins with both tables built (R90). -/
theorem beginBody (h : AtWork s) {q : Phase} (hq : s.phase = q) (hb : q.beforeHeader = false) (hi : q.inBody = false)
    (u : Huf) (lits dists : List (BitVec 4)) :
    AtWork { s with huf := (u.buildLl lits).buildDt dists, phase := .body } := by
  have hu := h.setHuf (by rw [hq]; exact hi) ((u.buildLl lits).buildDt dists)
  exact hu.setPhase (by simp only [hq, hb]; rfl) (Nat.zero_le _) nofun ⟨fun e => e.elim nofun nofun, nofun⟩
    fun _ => ⟨lits, dists, rfl, rfl⟩

theorem blkStored (h : AtWork s) (hp : s.phase = .blockHdr) (f : Bool) : Answers Inv (execBlkStored f s) := by
  have ha := (h.blockHeader hp f 0#2).alignToByte
  exact .next (ha.goto (p := .storedHdr) (q := .blockHdr) (by simpa using hp) rfl rfl (Nat.zero_le _)).inv

theorem storedHdr (h : AtWork s) (hp : s.phase = .storedHdr) (len nlen : BitVec 16) :
    Answers Inv (execStoredHdr len nlen s) := by
  have hs : AtWork { s with inf := { s.inf with slen := len, snlen := nlen } } :=
    h.setInfIn hp _ { h.inv.countersFit with } nofun nofun nofun
  refine .ite (fun _ => hs.raised hp (Nat.zero_le _)) (fun _ => .next ?_)
  have hc := hs.setInfIn hp { s.inf with slen := len, snlen := nlen, srem := len.toNat }
    { h.inv.countersFit with srem := len.isLt } nofun nofun nofun
  exact (hc.goto (p := .storedCopy) hp rfl rfl (Nat.zero_le _)).inv

theorem dynHdr (h : AtWork s) (hp : s.phase = .dynHdr) (hlit hdist : BitVec 5) (hclen : BitVec 4) :
    Answers Inv (execDynHdr hlit hdist hclen s) := by
  have hl := hlit.isLt
  have hd := hdist.isLt
  have hc := hclen.isLt
  have hs : AtWork { s with inf :=
      { s.inf with hlit := hlit.toNat + 257, hdist := hdist.toNat + 1, hclen := hclen.toNat + 4 } } :=
    h.setInfIn hp _ { h.inv.countersFit with
      hlit := by simp; omega
      hdist := by simp; omega
      hclen := by simp; omega } nofun nofun nofun
  exact .next (hs.setPhase (p := .dynCll) (by simp only [hp]; rfl) (Nat.zero_le _) nofun
    ⟨fun _ => ⟨by simp, by simp, by simp⟩, nofun⟩ nofun).inv

theorem dynCll (h : AtWork s) (hp : s.phase = .dynCll) (lens : List (BitVec 3)) :
    Answers Inv (execDynCll lens s) := by
  have hr := h.inv.dynamicHeader.1 (.inl hp)
  have hs : AtWork { s with inf := { s.inf with cll := placeCll lens, lens := [] } } :=
    h.setInf { h.inv.countersFit with cll := by simp [placeCll], lens := Nat.zero_le _ }
      (fun e => absurd (hp.symm.trans e) nofun) ⟨fun _ => hr, fun e => absurd (hp.symm.trans e) nofun⟩
  have hu := hs.setHuf (by simp only [hp]; rfl) (s.huf.buildCl ((placeCll lens).map (BitVec.zeroExtend 4)))
  exact .next (hu.setPhase (p := .codeLens) (by simp only [hp]; rfl) (Nat.zero_le _) nofun
    ⟨fun _ => hr, fun _ => by simp only [lensTotal, List.length_nil]; omega⟩ nofun).inv

/-- Lengths that fit are appended; the last ones build the tables (R198, R203, R204). -/
theorem appendLens (h : AtWork s) (hp : s.phase = .codeLens) {ls : List (BitVec 4)}
    (hl : s.inf.lens.length + ls.length ≤ lensTotal s) : Inv (Machine.appendLens ls s) := by
  have hr := h.inv.dynamicHeader.1 (.inr hp)
  have hf : CountersFit { s with inf := { s.inf with lens := s.inf.lens ++ ls } } := { h.inv.countersFit with
    lens := by
      have := h.inv.countersFit.hlit
      have := h.inv.countersFit.hdist
      simp only [lensTotal] at hl
      simp only [List.length_append]
      omega }
  unfold Machine.appendLens endCodeLen
  split
  next hlt => exact (h.setInf hf (fun e => absurd (hp.symm.trans e) nofun) ⟨fun _ => hr, fun _ => hlt⟩).inv
  next => exact ((h.beginBody hp rfl rfl ..).setInfIn rfl _ { hf with } nofun nofun nofun).inv

theorem repeatLen (h : AtWork s) (hp : s.phase = .codeLens) (count : Nat) (l : BitVec 4) :
    Answers Inv (Machine.repeatLen count l s) := by
  obtain ⟨hl, e⟩ | ⟨-, e⟩ := repeatLen_cases count l s <;> rw [e]
  · exact .next (h.appendLens hp (by simpa using hl))
  · exact h.raised hp (Nat.zero_le _)

theorem clRep (h : AtWork s) (hp : s.phase = .codeLens) (e : BitVec 2) : Answers Inv (execClRep e s) := by
  unfold execClRep
  split
  · exact h.raised hp (Nat.zero_le _)
  · exact h.repeatLen hp _ _

/-! ## Symbol level -/

/-- The last symbol read may take any value (R29). -/
theorem setSym (h : AtWork s) (hp : s.phase = .body) (sym : BitVec 9) :
    AtWork { s with inf := { s.inf with sym := sym } } := h.setInfIn hp _ { h.inv.countersFit with } nofun nofun nofun

theorem lengthSymbol (h : AtWork s) (hp : s.phase = .body) (sym : BitVec 9) {mlen : Nat} (hm : mlen ≤ 258) :
    Answers Inv (Machine.lengthSymbol sym mlen s) := by
  have hs : AtWork { s with inf := { s.inf with sym := sym, mlen := mlen } } :=
    h.setInfIn hp _ { h.inv.countersFit with mlen := hm } nofun nofun nofun
  exact .next (hs.gotoBody (by simp only [hp]; rfl) (.inr rfl)).inv

theorem distanceSymbol (h : AtWork s) (hp : s.phase = .dist) (dsym : BitVec 5) {mdist : Nat} (h1 : 1 ≤ mdist)
    (h2 : mdist ≤ 32768) : Answers Inv (Machine.distanceSymbol dsym mdist s) := by
  have hs : AtWork { s with inf := { s.inf with dsym := dsym, mdist := mdist } } :=
    h.setInfIn hp _ { h.inv.countersFit with mdist := h2 } nofun nofun nofun
  refine .ite (fun _ => hs.raised hp (Nat.zero_le _)) (fun hle => .next ?_)
  have hc := hs.setInfIn hp { s.inf with dsym := dsym, mdist := mdist, crem := s.inf.mlen }
    { h.inv.countersFit with mdist := h2, crem := h.inv.countersFit.mlen } nofun nofun nofun
  exact (hc.setPhase (p := .copy) (by simp only [hp]; rfl) (Nat.zero_le _) (fun _ => ⟨h1, Nat.not_lt.mp hle⟩)
    ⟨fun e => e.elim nofun nofun, nofun⟩ fun _ => h.inv.tablesBuilt (by rw [hp]; rfl)).inv

theorem distInv (h : AtWork s) (hp : s.phase = .dist) (o : Bool) : Answers Inv (execDistInv o s) := by
  have hs : AtWork { s with inf := { s.inf with dsym := 30#5 + BitVec.ofNat 5 o.toNat } } :=
    h.setInfIn hp _ { h.inv.countersFit with } nofun nofun nofun
  exact hs.raised hp (Nat.zero_le _)

/-! ## The zlib framer -/

/-- The start of a DEFLATE stream, after a zlib header or the DICTID (R185). -/
theorem infInit (h : AtWork s) (hp : s.phase = .zlibHdr ∨ s.phase = .dictid) : Inv (Machine.infInit s) := by
  have hq : s.phase.beforeHeader = false := by rcases hp with e | e <;> rw [e] <;> rfl
  have hb := h.setStream s.fifo s.pos (b := { acc := 0#32, cnt := 0 }) (z := s.zlf) (accumulatorBound_empty s)
    (winOk_init h.inv.winOk) (.inr fun e => by simp [e] at hp) h.inv.adlerReduced
  have hi := hb.goto (p := .blockHdr) rfl rfl hq.symm (Nat.zero_le _)
  exact (hi.setInfIn rfl { s.inf with bfinal := false } { h.inv.countersFit with } nofun nofun nofun).inv

theorem zlibHeader (h : AtWork s) (hp : s.phase = .zlibHdr) (cmf flg : Byte) :
    Answers Inv (Machine.zlibHeader cmf flg s) := by
  have hz := h.setZlf { s.zlf with cmf := cmf, flg := flg }
  exact .ite (fun _ => hz.raised hp le_rfl) fun _ => .ite (fun _ => hz.raised hp le_rfl) fun _ =>
    .ite (fun _ => .next (hz.goto (p := .dictid) hp rfl rfl (h.layer_le hp le_rfl)).inv) fun _ =>
      .next (hz.infInit (.inl hp))

theorem endFrame (h : AtWork s) (hp : s.phase = .trailer) : Answers Inv (Machine.endFrame s) := by
  unfold Machine.endFrame
  split
  next => exact .next h.succeeded
  next => exact .next h.succeeded
  next hm =>
    refine .ite (fun _ => .raise (h.latched (hm ▸ le_rfl))) (fun _ => .next ?_)
    exact (h.goto (p := .runEnd) hp rfl rfl (hm ▸ le_rfl)).inv

theorem trailer (h : AtWork s) (hp : s.phase = .trailer) (a : Word) : Answers Inv (execZlibTrailer a s) := by
  have hz := h.setZlf { s.zlf with trailer := a }
  exact .ite (fun _ => hz.raised hp le_rfl) (fun _ => hz.endFrame hp)

/-! ## The chunk iterator -/

theorem pngSig (h : AtWork s) (hp : s.phase = .sig) (b : BitVec 64) : Answers Inv (execPngSig b s) :=
  .ite (fun _ => h.raised hp le_rfl) fun _ => .next (h.goto (p := .firstChunk) hp rfl rfl (h.layer_le hp le_rfl)).inv

theorem chunkHeader (h : AtWork s) (len ctype : Word) : AtWork (Machine.chunkHeader len ctype s) :=
  h.setChk h.inv.countersFit.idatRem

/-- A chunk other than IHDR is an error in the first place; else its meaning runs in the loop (R322). -/
theorem notFirst (h : AtWork s) (hp : s.phase = .firstChunk ∨ s.phase = .chunk) {k : Res}
    (hk : s.phase = .chunk → Answers Inv k) : Answers Inv (Machine.notFirst s k) := by
  refine .notFirst (h.latched ?_) fun hn => hk (hp.resolve_left hn)
  rcases hp with e | e <;> exact h.layer_le e le_rfl

theorem chunkIhdr (h : AtWork s) (hp : s.phase = .firstChunk ∨ s.phase = .chunk) (len : Word) :
    Answers Inv (execChunkIhdr len s) := by
  have hh := h.chunkHeader len typeIhdr
  refine .ite (fun hf => .ite (fun _ => hh.raised hf le_rfl) fun _ => .next ?_) fun hf => ?_
  · exact (hh.goto (p := .ihdr) hf rfl rfl (h.layer_le hf le_rfl)).inv
  · exact hh.raised (hp.resolve_left hf) le_rfl

theorem chunkIdat (h : AtWork s) (hp : s.phase = .firstChunk ∨ s.phase = .chunk) (len : Word) :
    Answers Inv (execChunkIdat len s) := by
  have hh := h.chunkHeader len typeIdat
  refine hh.notFirst hp fun hc => .ite (fun _ => .next ?_) fun _ => .next ?_
  · exact (hh.goto (p := .chunkSkip) hc rfl rfl (h.layer_le hc le_rfl)).inv
  · have hs := hh.setChk (c := { s.chk with clen := len, ctype := typeIdat, idatRem := len.toNat }) len.isLt
    have ha := hs.setAdl (a := adlerInit) ⟨by decide, by decide⟩
    exact (ha.goto (p := .zlibHdr) hc rfl rfl (h.layer_le hc (by decide))).inv

theorem chunkIend (h : AtWork s) (hp : s.phase = .firstChunk ∨ s.phase = .chunk) (len : Word) :
    Answers Inv (execChunkIend len s) := by
  have hh := h.chunkHeader len typeIend
  exact hh.notFirst hp fun hc => .next (hh.goto (p := .iendCrc) hc rfl rfl (h.layer_le hc le_rfl)).inv

theorem chunkAnc (h : AtWork s) (hp : s.phase = .firstChunk ∨ s.phase = .chunk) (len ctype : Word) :
    Answers Inv (execChunkAnc len ctype s) := by
  have hh := h.chunkHeader len ctype
  have hs := hh.setChk (c := { s.chk with clen := len, ctype := ctype, runDone := false }) h.inv.countersFit.idatRem
  exact hh.notFirst hp fun hc => .next (hs.goto (p := .chunkSkip) hc rfl rfl (h.layer_le hc le_rfl)).inv

theorem chunkCrit (h : AtWork s) (hp : s.phase = .firstChunk ∨ s.phase = .chunk) (len ctype : Word) :
    Answers Inv (execChunkCrit len ctype s) := by
  have hh := h.chunkHeader len ctype
  exact hh.notFirst hp fun hc => hh.raised hc le_rfl

theorem ihdrPayload (h : AtWork s) (hp : s.phase = .ihdr) (w ht : Word) (d c m f il : Byte) :
    Answers Inv (execIhdrPayload w ht d c m f il s) := by
  have hv : s.ihd.valid = false := h.inv.headerLegal.early (by rw [hp]; rfl)
  have hi : AtWork { s with ihd := { s.ihd with
      width := w, height := ht, depth := d, colour := c, comp := m, filt := f, ilace := il } } :=
    h.setIhd hv hv rfl rfl
  unfold execIhdrPayload
  dsimp only
  split
  · exact hi.raised hp le_rfl
  · exact .ite (fun _ => .next (hi.accepted hp ‹_›)) fun _ => .refused _

theorem reconstruct (h : AtWork s) (hd : s.scanlineDue = true) (l u : Bool) (p : Byte → Byte → Byte → Byte) :
    Answers Inv (Machine.reconstruct l u p s) :=
  .ite (fun _ => .next (h.delivered hd (rowOf_length p (h.due hd).2.1))) fun _ => .fault _

end AtWork

/-! ## Every element -/

/-- What is performed: an element of the format the phase expects, or the filter of a complete scanline. -/
def Expected (s : State) (i : Instr) : Prop :=
  (s.phase.fmt = some i.fmt ∧ s.scanlineDue = false) ∨ (i.fmt = .fs ∧ s.scanlineDue = true)

theorem Expected.phase {i : Instr} (h : Expected s i) {f : Fmt} (hi : i.fmt = f) (hc : f ≠ .ch) (hf : f ≠ .fs) :
    s.phase = phaseOf f ∧ s.scanlineDue = false := by
  subst hi
  obtain ⟨hp, hd⟩ := h.resolve_right fun e => hf e.1
  exact ⟨phase_of_fmt hp hc, hd⟩

theorem Expected.chunk {i : Instr} (h : Expected s i) (hi : i.fmt = .ch) : s.phase = .firstChunk ∨ s.phase = .chunk :=
  phase_of_chunk (hi ▸ (h.resolve_right fun e => nomatch hi.symm.trans e.1).1)

theorem Expected.filter {i : Instr} (h : Expected s i) (hi : i.fmt = .fs) : s.scanlineDue = true := by
  refine (h.resolve_left fun e => ?_).2
  have hp := e.1
  rw [hi] at hp
  cases hq : s.phase <;> rw [hq] at hp <;> exact nomatch hp

theorem Effect.keepsInv {i : Instr} {r : Res} (he : Effect s i r) (h : AtWork s) (hx : Expected s i) :
    Answers Inv r := by
  have phaseIs {f : Fmt} (hi : i.fmt = f) (hc : f ≠ .ch) (hf : f ≠ .fs) : s.phase = phaseOf f := (hx.phase hi hc hf).1
  cases he with
  | blkStored f => exact h.blkStored (phaseIs rfl nofun nofun) f
  | blkFixed f =>
    have hp := phaseIs rfl nofun nofun
    exact .next ((h.blockHeader hp f 1#2).beginBody hp rfl rfl ..).inv
  | blkDyn f =>
    have hp := phaseIs rfl nofun nofun
    exact .next ((h.blockHeader hp f 2#2).goto (p := .dynHdr) hp rfl rfl (Nat.zero_le _)).inv
  | blkRsvd f =>
    have hp := phaseIs rfl nofun nofun
    exact (h.blockHeader hp f 3#2).raised hp (Nat.zero_le _)
  | storedHdr l n => exact h.storedHdr (phaseIs rfl nofun nofun) l n
  | dynHdr l d c => exact h.dynHdr (phaseIs rfl nofun nofun) l d c
  | dynCll ls => exact h.dynCll (phaseIs rfl nofun nofun) ls
  | clLen l =>
    have hp := phaseIs rfl nofun nofun
    exact .next (h.appendLens hp (h.inv.dynamicHeader.2 hp))
  | clRep e => exact h.clRep (phaseIs rfl nofun nofun) e
  | clZero _ count hi => exact h.repeatLen (phaseIs hi nofun nofun) count 0#4
  | lit b =>
    obtain ⟨hp, hd⟩ := hx.phase rfl nofun nofun
    exact .next ((h.setSym hp (b.zeroExtend 9)).emitted (by simp only [hp]; rfl) hd b)
  | eob =>
    have hp := phaseIs rfl nofun nofun
    exact .next ((h.setSym hp 256#9).blockEnded (by simp only [hp]; rfl))
  | llInv o =>
    have hp := phaseIs rfl nofun nofun
    exact (h.setSym hp (286#9 + BitVec.ofNat 9 o.toNat)).raised hp (Nat.zero_le _)
  | length _ sym mlen h1 h2 hi => exact h.lengthSymbol (phaseIs hi nofun nofun) sym h2
  | dist _ dsym mdist h1 h2 hi => exact h.distanceSymbol (phaseIs hi nofun nofun) dsym h1 h2
  | distInv o => exact h.distInv (phaseIs rfl nofun nofun) o
  | zlib _ cmf flg hi => exact h.zlibHeader (phaseIs hi nofun nofun) cmf flg
  | dictid id => exact .next (h.infInit (.inr (phaseIs rfl nofun nofun)))
  | trailer a => exact h.trailer (phaseIs rfl nofun nofun) a
  | sig b => exact h.pngSig (phaseIs rfl nofun nofun) b
  | chunkIhdr l => exact h.chunkIhdr (hx.chunk rfl) l
  | chunkIdat l => exact h.chunkIdat (hx.chunk rfl) l
  | chunkIend l => exact h.chunkIend (hx.chunk rfl) l
  | chunkAnc l c => exact h.chunkAnc (hx.chunk rfl) l c
  | chunkCrit l c => exact h.chunkCrit (hx.chunk rfl) l c
  | ihdr w ht d c m f il => exact h.ihdrPayload (phaseIs rfl nofun nofun) w ht d c m f il
  | filter _ l u p hi => exact h.reconstruct (hx.filter hi) l u p
  | fltInv b => exact .next (h.filterError (hx.filter rfl))

theorem fetchScanline_fmt (s : State) : (fetchScanline s).fmt = .fs := by
  unfold fetchScanline filterInstr
  split_ifs <;> rfl

/-! ## Every pass -/

theorem Pass.keepsInv (hp : Pass s t) (h : AtWork s) (hd : s.scanlineDue = false) : Inv t := by
  cases hp with
  | storedEnd hp ht => exact ht ▸ h.blockEnded (by rw [hp]; rfl)
  | stored hp b r hr ht =>
    have hc := h.consume (currentGet_consumes hr)
    obtain ⟨n, hn⟩ := currentGet_consumes hr
    have hq : r.phase = .storedCopy := by rw [hn.frame]; exact hp
    have hs := hc.setInfIn hq { r.inf with srem := r.inf.srem - 1 }
      { hc.inv.countersFit with srem := (Nat.sub_le _ _).trans_lt hc.inv.countersFit.srem } nofun nofun nofun
    exact ht ▸ hs.emitted (by simp only [hq]; rfl) (by rw [hn.frame]; exact hd) b
  | copyEnd hp ht => exact ht ▸ (h.gotoBody (by rw [hp]; rfl) (.inl rfl)).inv
  | copied hp b ht =>
    have hs := h.setInf (j := { s.inf with crem := s.inf.crem - 1 })
      { h.inv.countersFit with crem := (Nat.sub_le _ _).trans h.inv.countersFit.crem }
      h.inv.copyLegal h.inv.dynamicHeader
    exact ht ▸ hs.emitted (by simp only [hp]; rfl) hd b
  | toChunk hp n hn ht =>
    have hs := h.setInput (s.fifo.drop n) (s.pos + n)
    rcases hp with e | e <;> exact ht ▸ (hs.goto (p := .chunk) e rfl rfl (h.layer_le e le_rfl)).inv
  | runEnd hp n hn ht =>
    have hs := (h.setInput (s.fifo.drop n) (s.pos + n)).setChk (c := { s.chk with idatRem := 0, runDone := true })
      (by norm_num)
    exact ht ▸ (hs.goto (p := .chunk) hp rfl rfl (h.layer_le hp le_rfl)).inv
  | iend hp n hn ht => exact ht ▸ (h.setInput _ _).succeeded
  | raised k hk ht => exact ht ▸ h.latched (h.layer_le rfl hk)
  | held ht => exact ht ▸ h.inv

/-! ## The block's own step -/

theorem AtWork.performs (h : AtWork s) {i : Instr} (hx : Expected s i) : Answers Inv (exec i s) :=
  (exec_effect i s).keepsInv h hx

theorem BlockStep.keepsInv (hb : BlockStep s t) (h : Inv s) : Inv t := by
  cases hb with
  | idle _ ht => exact ht ▸ h
  | drain hr x rest ho ht => exact ht ▸ h.drained hr ho
  | scanline hr ho hd ht => exact AtWork.performs ⟨h, hr, ho⟩ (.inr ⟨fetchScanline_fmt s, hd⟩) t ht
  | element hr ho hd f hf i r hi ht =>
    have hw := AtWork.consume ⟨h, hr, ho⟩ (fetch_consumes hi)
    obtain ⟨n, hn⟩ := fetch_consumes hi
    have hx : Expected r i := .inl (by rw [decode_fmt hi, hn.frame]; exact ⟨hf, hd⟩)
    exact hw.performs hx t ht
  | fail hr ho hd f hf k hk ht =>
    have hw : AtWork s := ⟨h, hr, ho⟩
    have hl : k.layer ≤ s.phase.layer := by
      rcases hk with ⟨rfl, -⟩ | ⟨rfl, -⟩
      · exact (eofKind_layer hf).le
      · exact Nat.zero_le _
    exact ht ▸ hw.latched (hw.layer_le rfl hl)
  | hold _ _ _ _ _ _ ht => exact ht ▸ h
  | operation hr ho hd _ ht => exact (runOperation_pass t ht).keepsInv ⟨h, hr, ho⟩ hd

/-! ## Reset, start and the other actions of the host -/

theorem inv_reset : Inv State.reset where
  windowCanonical := ⟨rfl, fun _ _ => rfl⟩
  accumulatorBound := accumulatorBound_empty State.reset
  adlerReduced := ⟨by decide, by decide⟩
  windowCounters := ⟨rfl, rfl⟩
  windowValid := fun d h1 (h2 : d ≤ 0) => by omega
  copyLegal := nofun
  countersFit := by constructor <;> decide
  dynamicHeader := ⟨fun e => e.elim nofun nofun, nofun⟩
  tablesBuilt := nofun
  phaseOfMode := Nat.zero_le _
  errorsLegal := ⟨fun _ => rfl, .inl ⟨rfl, rfl, rfl⟩⟩
  offersOnlyBusy := fun _ => rfl
  portOfMode := nofun
  headerLegal := ⟨fun _ => rfl, nofun, fun _ => ⟨rfl, rfl⟩, nofun, nofun⟩
  scanlineBuffers := ⟨Nat.zero_le _, fun _ => rfl, fun e => absurd rfl e, nofun, nofun, fun _ => rfl, nofun⟩

/-- The surroundings of the ports are no part of the invariant. -/
theorem Inv.setSurroundings (h : Inv s) (inEnd : Bool) (fifo : List Byte) (ob sl : Bool) (host : List HostEvent)
    (log : List OutXfer) :
    Inv { s with inEnd := inEnd, fifo := fifo, obReady := ob, slReady := sl, host := host, log := log } :=
  { h with
    countersFit := h.countersFit.same
    headerLegal := h.headerLegal.same
    scanlineBuffers := h.scanlineBuffers.same }

/-- A run begins BUSY at the first element of its mode, with the reset values (R451, R452). -/
theorem inv_startState (m : Mode) (s : State) : Inv (startState m s) := by
  have h : Inv { State.reset with mode := m, runState := .busy, phase := firstPhase m } := { inv_reset with
    copyLegal := by cases m <;> nofun
    dynamicHeader := by cases m <;> exact ⟨fun e => e.elim nofun nofun, nofun⟩
    tablesBuilt := by cases m <;> nofun
    phaseOfMode := by cases m <;> exact le_rfl
    errorsLegal := ⟨fun _ => rfl, .inl ⟨rfl, rfl, rfl⟩⟩
    offersOnlyBusy := fun _ => rfl
    portOfMode := nofun
    countersFit := inv_reset.countersFit.same
    headerLegal := ⟨fun _ => rfl, by cases m <;> nofun, fun _ => ⟨rfl, rfl⟩, nofun, nofun⟩
    scanlineBuffers := { inv_reset.scanlineBuffers with unused := fun _ => rfl, latched := nofun } }
  exact h.setSurroundings ..

/-! ## Settled -/

/-- Settles O55: the reset values, clause by clause. -/
theorem invariantAtReset : Obligations.InvariantAtReset := inv_reset

/-- Settles O56: the host's actions touch only the surroundings or begin anew, and the block's own step keeps it. -/
theorem stepKeepsInvariant : Obligations.StepKeepsInvariant := by
  intro s t h hs
  cases step_cases hs with
  | rst _ _ ht => exact ht ▸ inv_reset.setSurroundings ..
  | start _ mode _ _ _ _ ht => exact ht ▸ inv_startState mode _
  | xfer _ _ _ _ _ ht => exact ht ▸ h.setSurroundings ..
  | inEnd _ _ ht => exact ht ▸ h.setSurroundings ..
  | obReady _ _ _ ht => exact ht ▸ h.setSurroundings ..
  | slReady _ _ _ ht => exact ht ▸ h.setSurroundings ..
  | pass rest _ hb => exact hb.keepsInv (h.setSurroundings s.inEnd s.fifo s.obReady s.slReady rest s.log)
  | own _ hb => exact hb.keepsInv h

end Sys2Proof.Machine
end

section
/-! PROOFS. The registers with few writers (R25, R31, R34, R35): the bit reader, the Adler-32 sums, the image header
and the reconstructor change only by the elements that write them. -/

namespace Sys2Proof.Machine

variable {s t : State} {i : Instr}

/-! ## What most meanings leave as it was -/

/-- The registers that few elements write. -/
def State.unwritten (s : State) : Bsr × Adl × Ihd × Flt := (s.bsr, s.adl, s.ihd, s.flt)

/-- From `s` to `t` each of those registers has changed only if the element is one of its writers; the bit reader may
also have been emptied (R155, R185). -/
structure FewWriters (i : Instr) (s t : State) : Prop where
  bsr : t.bsr = s.bsr ∨ t.bsr = { acc := 0#32, cnt := 0 }
  ihd : (∀ w h d c m f l, i ≠ .ihdrPayload w h d c m f l) → t.ihd = s.ihd
  adl : (∀ b, i ≠ .lit b) → (∀ len, i ≠ .chunkIdat len) → t.adl = s.adl
  flt : (∀ b, i ≠ .lit b) → (∀ w h d c m f l, i ≠ .ihdrPayload w h d c m f l) → i.fmt ≠ .fs → t.flt = s.flt

theorem FewWriters.same (h : t.unwritten = s.unwritten) : FewWriters i s t := by
  simp only [State.unwritten, Prod.mk.injEq] at h
  obtain ⟨hb, ha, hi, hf⟩ := h
  exact ⟨.inl hb, fun _ => hi, fun _ _ => ha, fun _ _ _ => hf⟩

/-- An element that raises may first have written other registers. -/
theorem fewWriters_raise {k : ErrKind} {s' : State} (h : s'.unwritten = s.unwritten) :
    Answers (FewWriters i s) (raise k s') := .raise (.same (by simpa [State.unwritten] using h))

/-! ## The meanings -/

theorem endBlock_unwritten (s : State) : (endBlock s).unwritten = s.unwritten := by simp [State.unwritten]

theorem appendLens_unwritten (ls : List (BitVec 4)) (s : State) : (appendLens ls s).unwritten = s.unwritten := by
  simp [State.unwritten]

theorem repeatLen_fewWriters (count : Nat) (l : BitVec 4) (s : State) :
    Answers (FewWriters i s) (repeatLen count l s) :=
  .ite (fun _ => fewWriters_raise rfl) fun _ => .next (.same (appendLens_unwritten ..))

theorem execClRep_fewWriters (e : BitVec 2) (s : State) : Answers (FewWriters i s) (execClRep e s) := by
  unfold execClRep
  split
  · exact fewWriters_raise rfl
  · exact repeatLen_fewWriters _ _ s

theorem distanceSymbol_fewWriters (dsym : BitVec 5) (mdist : Nat) (s : State) :
    Answers (FewWriters i s) (distanceSymbol dsym mdist s) :=
  .ite (fun _ => fewWriters_raise rfl) fun _ => .next (.same rfl)

theorem execZlibTrailer_fewWriters (a : Word) (s : State) : Answers (FewWriters i s) (execZlibTrailer a s) := by
  refine .ite (fun _ => fewWriters_raise rfl) fun _ => ?_
  unfold endFrame
  split
  · exact .next (.same rfl)
  · exact .next (.same rfl)
  · exact .ite (fun _ => fewWriters_raise rfl) fun _ => .next (.same rfl)

theorem notFirst_fewWriters {s' : State} {k : Res} (h : s'.unwritten = s.unwritten)
    (hk : Answers (FewWriters i s) k) : Answers (FewWriters i s) (notFirst s' k) :=
  .ite (fun _ => fewWriters_raise h) fun _ => hk

/-- The start of a DEFLATE stream empties the bit reader (R185). -/
theorem infInit_fewWriters {s' : State} (h : s'.unwritten = s.unwritten) : FewWriters i s (infInit s') := by
  obtain ⟨-, hi, ha, hf⟩ := FewWriters.same (i := i) h
  exact ⟨.inr rfl, hi, ha, hf⟩

theorem zlibHeader_fewWriters (cmf flg : Byte) (s : State) : Answers (FewWriters i s) (zlibHeader cmf flg s) :=
  .ite (fun _ => fewWriters_raise rfl) fun _ =>
    .ite (fun _ => fewWriters_raise rfl) fun _ =>
      .ite (fun _ => .next (.same rfl)) fun _ => .next (infInit_fewWriters rfl)

/-- An alignment keeps the bit reader or empties it (R155). -/
theorem alignToByte_bsr (s : State) :
    (alignToByte s).bsr = s.bsr ∨ (alignToByte s).bsr = { acc := 0#32, cnt := 0 } := by
  unfold alignToByte
  split
  · exact .inr rfl
  · exact .inl rfl

theorem execBlkStored_fewWriters (f : Bool) (s : State) : Answers (FewWriters i s) (execBlkStored f s) :=
  .next ⟨alignToByte_bsr (blockHeader f 0#2 s), fun _ => by simp, fun _ _ => by simp, fun _ _ _ => by simp⟩

theorem execLit_fewWriters (b : Byte) (s : State) : Answers (FewWriters (.lit b) s) (execLit b s) :=
  .next ⟨.inl (by simp), fun _ => by simp, fun h => absurd rfl (h b), fun h => absurd rfl (h b)⟩

theorem execChunkIdat_fewWriters (len : Word) (s : State) :
    Answers (FewWriters (.chunkIdat len) s) (execChunkIdat len s) :=
  notFirst_fewWriters rfl (.ite (fun _ => .next (.same rfl)) fun _ =>
    .next ⟨.inl rfl, fun _ => rfl, fun _ h => absurd rfl (h len), fun _ _ _ => rfl⟩)

theorem execIhdrPayload_fewWriters (w h : Word) (d c m f il : Byte) (s : State) :
    Answers (FewWriters (.ihdrPayload w h d c m f il) s) (execIhdrPayload w h d c m f il s) := by
  have writer {t : State} (hb : t.bsr = s.bsr) (ha : t.adl = s.adl) : FewWriters (.ihdrPayload w h d c m f il) s t :=
    ⟨.inl hb, fun hn => absurd rfl (hn w h d c m f il), fun _ _ => ha, fun _ hn => absurd rfl (hn w h d c m f il)⟩
  unfold execIhdrPayload
  dsimp only
  split
  · exact .raise (writer (by simp) (by simp))
  · exact .ite (fun _ => .next (writer rfl rfl)) fun _ => .refused _

theorem reconstruct_fewWriters (hi : i.fmt = .fs) (l u : Bool) (p : Byte → Byte → Byte → Byte) (s : State) :
    Answers (FewWriters i s) (reconstruct l u p s) :=
  .ite (fun _ => .next ⟨.inl rfl, fun _ => rfl, fun _ _ => rfl, fun _ _ hn => absurd hi hn⟩) fun _ => .fault _

/-! ## Every element -/

theorem Effect.fewWriters {r : Res} (he : Effect s i r) : Answers (FewWriters i s) r := by
  cases he with
  | blkStored f => exact execBlkStored_fewWriters f s
  | blkFixed f => exact .next (.same rfl)
  | blkDyn f => exact .next (.same rfl)
  | blkRsvd f => exact fewWriters_raise rfl
  | storedHdr l n => exact .ite (fun _ => fewWriters_raise rfl) fun _ => .next (.same rfl)
  | dynHdr l d c => exact .next (.same rfl)
  | dynCll ls => exact .next (.same rfl)
  | clLen l => exact .next (.same (appendLens_unwritten ..))
  | clRep e => exact execClRep_fewWriters e s
  | clZero _ count => exact repeatLen_fewWriters count 0#4 s
  | lit b => exact execLit_fewWriters b s
  | eob => exact .next (.same (endBlock_unwritten { s with inf := { s.inf with sym := 256#9 } }))
  | llInv o => exact fewWriters_raise rfl
  | length => exact .next (.same rfl)
  | dist _ dsym mdist => exact distanceSymbol_fewWriters dsym mdist s
  | distInv o => exact fewWriters_raise rfl
  | zlib _ cmf flg => exact zlibHeader_fewWriters cmf flg s
  | dictid id => exact .next (infInit_fewWriters rfl)
  | trailer a => exact execZlibTrailer_fewWriters a s
  | sig b => exact .ite (fun _ => fewWriters_raise rfl) fun _ => .next (.same rfl)
  | chunkIhdr l =>
    exact .ite (fun _ => .ite (fun _ => fewWriters_raise rfl) fun _ => .next (.same rfl))
      fun _ => fewWriters_raise rfl
  | chunkIdat l => exact execChunkIdat_fewWriters l s
  | chunkIend l => exact notFirst_fewWriters rfl (.next (.same rfl))
  | chunkAnc l c => exact notFirst_fewWriters rfl (.next (.same rfl))
  | chunkCrit l c => exact notFirst_fewWriters rfl (fewWriters_raise rfl)
  | ihdr w h d c m f il => exact execIhdrPayload_fewWriters w h d c m f il s
  | filter _ l u p hi => exact reconstruct_fewWriters hi l u p s
  | fltInv b => exact .next ⟨.inl rfl, fun _ => rfl, fun _ _ => rfl, fun _ _ hn => absurd rfl hn⟩

theorem exec_fewWriters (i : Instr) (s : State) : Answers (FewWriters i s) (exec i s) := (exec_effect i s).fewWriters

/-! ## The accumulator (R25) -/

/-- A bit reader that is as before or empty keeps its bound. -/
theorem AccumulatorBound.of_bsr (h : AccumulatorBound s)
    (hb : t.bsr = s.bsr ∨ t.bsr = { acc := 0#32, cnt := 0 }) : AccumulatorBound t := by
  rcases hb with e | e
  · simpa only [AccumulatorBound, e] using h
  · simp [AccumulatorBound, e]

theorem AccumulatorBound.consume (h : AccumulatorBound s) (hc : ConsumesSome s t) : AccumulatorBound t :=
  let ⟨_, hn⟩ := hc
  hn.bound h

theorem Pass.keepsAccumulator (hp : Pass s t) (h : AccumulatorBound s) : AccumulatorBound t := by
  cases hp with
  | storedEnd _ ht => exact h.of_bsr (.inl (by simp [ht]))
  | stored _ b r hr ht => exact (h.consume (currentGet_consumes hr)).of_bsr (.inl (by simp [ht]))
  | copyEnd _ ht => exact ht ▸ h
  | copied _ b ht => exact h.of_bsr (.inl (by simp [ht]))
  | toChunk _ n _ ht => exact ht ▸ h
  | runEnd _ n _ ht => exact ht ▸ h
  | iend _ n _ ht => exact ht ▸ h
  | raised k _ ht => exact h.of_bsr (.inl (by simp [ht]))
  | held ht => exact ht ▸ h

theorem BlockStep.keepsAccumulator (hb : BlockStep s t) (h : AccumulatorBound s) : AccumulatorBound t := by
  cases hb with
  | idle _ ht => exact ht ▸ h
  | drain _ x rest _ ht => exact h.of_bsr (.inl (by simp [ht]))
  | scanline _ _ _ ht => exact h.of_bsr (exec_fewWriters _ s t ht).bsr
  | element _ _ _ f _ i r hr ht => exact (h.consume (fetch_consumes hr)).of_bsr (exec_fewWriters i r t ht).bsr
  | fail _ _ _ _ _ _ _ ht => exact h.of_bsr (.inl (by simp [ht]))
  | hold _ _ _ _ _ _ ht => exact ht ▸ h
  | operation _ _ _ _ ht => exact (runOperation_pass t ht).keepsAccumulator h

/-! ## Settled -/

/-- Settles O30: each meaning leaves the registers it does not write. -/
theorem registersHaveTheirWriters : Obligations.RegistersHaveTheirWriters := fun s t i h =>
  let ⟨_, hi, ha, hf⟩ := exec_fewWriters i s t h
  ⟨hi, ha, hf⟩

/-- Settles O57: a read leaves at most 7 bits, and all else keeps the bit reader or empties it. -/
theorem stepKeepsAccumulatorBound : Obligations.StepKeepsAccumulatorBound := by
  intro s t h hs
  cases step_cases hs with
  | rst _ _ ht => exact ht ▸ accumulatorBound_empty State.reset
  | start _ _ _ _ _ _ ht => exact ht ▸ accumulatorBound_empty State.reset
  | xfer _ _ _ _ _ ht => exact ht ▸ h
  | inEnd _ _ ht => exact ht ▸ h
  | obReady _ _ _ ht => exact ht ▸ h
  | slReady _ _ _ ht => exact ht ▸ h
  | pass _ _ hb => exact hb.keepsAccumulator h
  | own _ hb => exact hb.keepsAccumulator h

end Sys2Proof.Machine
end

section
/-! PROOFS. What the block's own step does to its input and its output (R22, R61, R66): bytes are consumed from the
front of the queue and counted by `POS`, transfers are made in the order they were produced, and the end flag stays. -/

namespace Sys2Proof.Machine

variable {s t u : State}

/-! ## Progress of input and output -/

/-- From `s` to `t` some bytes were consumed, and transfers were made and offered, in order. -/
structure Progress (s t : State) : Prop where
  consumed : ∃ n, n ≤ s.fifo.length ∧ t.pos = s.pos + n ∧ t.fifo = s.fifo.drop n
  produced : s.log ++ s.offer <+: t.log ++ t.offer
  made : s.log <+: t.log
  inEnd : t.inEnd = s.inEnd

namespace Progress

theorem trans (h : Progress s t) (h' : Progress t u) : Progress s u := by
  obtain ⟨m, hm, hmp, hmf⟩ := h.consumed
  obtain ⟨n, hn, hnp, hnf⟩ := h'.consumed
  rw [hmf, List.length_drop] at hn
  exact {
    consumed := ⟨m + n, by omega, by omega, by rw [hnf, hmf, List.drop_drop]⟩
    produced := h.produced.trans h'.produced
    made := h.made.trans h'.made
    inEnd := h'.inEnd.trans h.inEnd }

/-- A step that touches neither the surroundings nor past output only offers more. -/
theorem of_onlyOffers (h : OnlyOffers s t) : Progress s t := by
  obtain ⟨hf, hp, he, -, -, -, -, hl, new, ho⟩ := (onlyOffers_iff s t).mp h
  exact {
    consumed := ⟨0, Nat.zero_le _, hp, hf⟩
    produced := ⟨new, by rw [hl, ho, List.append_assoc]⟩
    made := hl ▸ List.prefix_rfl
    inEnd := he }

theorem refl (s : State) : Progress s s := of_onlyOffers (.of_same rfl rfl)

theorem of_consumes (h : ConsumesSome s t) : Progress s t := by
  obtain ⟨n, hn⟩ := h
  rw [hn.frame]
  exact ⟨⟨n, hn.enough, rfl, rfl⟩, List.prefix_rfl, List.prefix_rfl, rfl⟩

/-- A skip of `n` bytes that are at hand (R11). -/
theorem skipped {n : Nat} (hn : n ≤ s.fifo.length) : Progress s { s with fifo := s.fifo.drop n, pos := s.pos + n } :=
  ⟨⟨n, hn, rfl, rfl⟩, List.prefix_rfl, List.prefix_rfl, rfl⟩

/-- An offered transfer is made or held (R464). -/
theorem drained {x : OutXfer} {rest : List OutXfer} (ho : s.offer = x :: rest) : Progress s (drain x rest s) := by
  have accepted {f : Flt} : Progress s { s with offer := rest, log := s.log ++ [x], flt := f } :=
    ⟨⟨0, Nat.zero_le _, rfl, rfl⟩, by simp [ho], List.prefix_append .., rfl⟩
  obtain ⟨-, e⟩ | ⟨-, -, e⟩ | ⟨-, -, e⟩ := drain_cases x rest s <;> rw [e]
  · exact refl s
  · exact accepted
  · exact accepted

end Progress

/-! ## Passes and steps -/

theorem Pass.progress (hp : Pass s t) : Progress s t := by
  cases hp with
  | storedEnd _ ht => exact ht ▸ .of_onlyOffers (onlyOffers_endBlock s)
  | stored _ b r hr ht =>
    have he : OnlyOffers r (emit b { r with inf := { r.inf with srem := r.inf.srem - 1 } }) :=
      (OnlyOffers.of_same rfl rfl).trans (onlyOffers_emit b _)
    exact ht ▸ (Progress.of_consumes (currentGet_consumes hr)).trans (.of_onlyOffers he)
  | copyEnd _ ht => exact ht ▸ .of_onlyOffers (.of_same rfl rfl)
  | copied _ b ht => exact ht ▸ .of_onlyOffers ((OnlyOffers.of_same rfl rfl).trans (onlyOffers_emit b _))
  | toChunk _ n hn ht => exact ht ▸ (Progress.skipped hn).trans (.of_onlyOffers (.of_same rfl rfl))
  | runEnd _ n hn ht => exact ht ▸ (Progress.skipped hn).trans (.of_onlyOffers (.of_same rfl rfl))
  | iend _ n hn ht => exact ht ▸ (Progress.skipped hn).trans (.of_onlyOffers (.of_same rfl rfl))
  | raised k _ ht => exact ht ▸ .of_onlyOffers (onlyOffers_latch k s)
  | held ht => exact ht ▸ .refl s

theorem BlockStep.progress (hb : BlockStep s t) : Progress s t := by
  cases hb with
  | idle _ ht => exact ht ▸ .refl s
  | drain _ x rest ho ht => exact ht ▸ .drained ho
  | scanline _ _ _ ht => exact .of_onlyOffers (exec_onlyOffers _ s t ht)
  | element _ _ _ f _ i r hr ht =>
    exact (Progress.of_consumes (fetch_consumes hr)).trans (.of_onlyOffers (exec_onlyOffers i r t ht))
  | fail _ _ _ _ _ k _ ht => exact ht ▸ .of_onlyOffers (onlyOffers_latch k s)
  | hold _ _ _ _ _ _ ht => exact ht ▸ .refl s
  | operation _ _ _ _ ht => exact (runOperation_pass t ht).progress

theorem BlockMoves.blockStep (hb : BlockMoves s) (hs : step s = .next t) :
    ∃ rest, BlockStep { s with host := rest } t := by
  rcases hb with hh | ⟨rest, hh⟩ <;> simp only [step, cycle, hh] at hs
  · exact ⟨s.host, blockStep_cases hs⟩
  · exact ⟨rest, blockStep_cases hs⟩

/-- The schedule of the host has no part in it. -/
theorem BlockMoves.progress (hb : BlockMoves s) (hs : step s = .next t) : Progress s t := by
  obtain ⟨rest, h⟩ := hb.blockStep hs
  obtain ⟨consumed, produced, made, inEnd⟩ := h.progress
  exact ⟨consumed, produced, made, inEnd⟩

/-! ## Settled -/

/-- Settles O53: every step of the block only adds at the end. -/
theorem outputOrderIsKept : Obligations.OutputOrderIsKept := by
  intro s t hb hs
  have hp := hb.progress hs
  obtain ⟨new, hn⟩ := hp.produced
  exact ⟨⟨new, hn.symm⟩, hp.made⟩

/-- Settles O54: reads and skips count what they take from the front of the queue, and nothing else takes any. -/
theorem positionCountsConsumption : Obligations.PositionCountsConsumption :=
  fun _ _ hb hs => (hb.progress hs).consumed

/-- The end flag: cleared by reset and start, set by `in_end`, kept by every other step (R61, R450, R451). -/
theorem step_inEnd (hs : step s = .next t) :
    ((∃ rest, s.host = .rst :: rest) ∨ (∃ m rest, s.host = .start m :: rest)) ∧ t.inEnd = false ∨
    (∃ rest, s.host = .inEnd :: rest) ∧ t.inEnd = true ∨
    (∀ rest, s.host ≠ .rst :: rest) ∧ (∀ m rest, s.host ≠ .start m :: rest) ∧ t.inEnd = s.inEnd := by
  cases step_cases hs with
  | rst rest h ht => exact .inl ⟨.inl ⟨rest, h⟩, ht ▸ rfl⟩
  | start m _ rest h _ _ ht => exact .inl ⟨.inr ⟨m, rest, h⟩, ht ▸ rfl⟩
  | inEnd rest h ht => exact .inr (.inl ⟨⟨rest, h⟩, ht ▸ rfl⟩)
  | xfer b rest h _ _ ht => exact .inr (.inr (by simp [h, ht]))
  | obReady r rest h ht => exact .inr (.inr (by simp [h, ht]))
  | slReady r rest h ht => exact .inr (.inr (by simp [h, ht]))
  | pass rest h hb => exact .inr (.inr (by simp [h, hb.progress.inEnd]))
  | own h hb => exact .inr (.inr (by simp [h, hb.progress.inEnd]))

/-- Settles O51: the two port actions by their definition, the end flag by what each step does to it. -/
theorem inputPort : Obligations.InputPort := by
  refine ⟨fun s b rest hh => ?_, fun s rest hh => ?_, fun s t hs => ?_⟩
  · simp only [step, cycle, hh, hostStep, hostXfer, State.inReady]
    exact ⟨fun hb he => by simp [hb, he], fun hb => by simp [hb], fun hb he => by simp [hb, he]⟩
  · simp only [step, cycle, hh, hostStep]
  · obtain ⟨hr, ht⟩ | ⟨he, ht⟩ | ⟨hr, hm, ht⟩ := step_inEnd hs
    · exact ⟨fun _ => .inr hr, fun _ h => absurd (ht.symm.trans h) nofun, fun _ => ht⟩
    · obtain ⟨rest, hh⟩ := he
      exact ⟨fun _ => .inl ht, fun _ _ => ⟨rest, hh⟩, fun h => by simp [hh] at h⟩
    · refine ⟨fun h => .inl (ht.trans h), fun h h' => absurd (h.symm.trans (ht.symm.trans h')) nofun, fun h => ?_⟩
      rcases h with ⟨rest, h⟩ | ⟨m, rest, h⟩
      · exact absurd h (hr rest)
      · exact absurd h (hm m rest)

end Sys2Proof.Machine
end

section
/-! PROOFS. A scanline event on its port (R64, R65, R381): which transfers it is made of, and what the block holds
after each of them. -/

namespace Sys2Proof.Machine

/-! ## The transfers of an event -/

@[simp] theorem scanColumns_length (row : Word) :
    ∀ (first : Bool) (bytes : List Byte), (scanColumns row first bytes).length = bytes.length
  | _, [] => rfl
  | _, _ :: bytes => congrArg (· + 1) (scanColumns_length row false bytes)

/-- Column x carries byte x, marked first only in the first column and last only in the last. -/
theorem scanColumns_getElem? (row : Word) : ∀ (first : Bool) (bytes : List Byte) (x : Nat), x < bytes.length →
    (scanColumns row first bytes)[x]? =
      some (.scan row bytes[x]? (first && decide (x = 0)) (decide (x + 1 = bytes.length)) false)
  | _, [], _, h => absurd h (Nat.not_lt_zero _)
  | first, b :: bytes, 0, _ => by cases bytes <;> simp [scanColumns]
  | first, b :: bytes, x + 1, h => by
    have := scanColumns_getElem? row false bytes x (Nat.lt_of_succ_lt_succ h)
    simpa [scanColumns] using this

theorem scanXfers_of_ne_nil (row : Word) {bytes : List Byte} (h : bytes ≠ []) :
    scanXfers row bytes = scanColumns row true bytes := if_neg (by simpa using h)

/-! ## Making them -/

variable {s t : State}

theorem runSteps_succ (n : Nat) (h : step s = .next t) : runSteps (n + 1) s = runSteps n t := by
  simp [runSteps, h]

theorem runSteps_add {m : Nat} (n : Nat) (h : runSteps m s = .next t) : runSteps (m + n) s = runSteps n t := by
  induction m generalizing s with
  | zero => cases h; rw [Nat.zero_add]
  | succ m ih =>
    cases hs : step s with
    | next r =>
      rw [runSteps_succ m hs] at h
      rw [Nat.succ_add, runSteps_succ (m + n) hs, ih h]
    | fault r => simp [runSteps, hs] at h
    | refused r => simp [runSteps, hs] at h

/-- With the port ready, transfers that do not end the event are made one a step, and nothing else changes (R464). -/
theorem runSteps_drain : ∀ (init rest : List OutXfer) {s : State}, s.runState = .busy → s.host = [] →
    s.offer = init ++ rest → (∀ x ∈ init, x.accepted s = true ∧ x.endsScanline = false) →
    runSteps init.length s = .next { s with offer := rest, log := s.log ++ init }
  | [], rest, s, _, _, ho, _ => by rw [List.append_nil, ← show s.offer = rest from ho]; rfl
  | x :: init, rest, s, hb, hh, ho, hx => by
    obtain ⟨ha, he⟩ := hx x List.mem_cons_self
    have hs : step s = .next { s with offer := init ++ rest, log := s.log ++ [x] } := by
      rw [step_drain hb hh ho]
      simp [drain, accept, ha, he]
    have hrest := runSteps_drain init rest (s := { s with offer := init ++ rest, log := s.log ++ [x] }) hb hh rfl
      fun y hy => hx y (List.mem_cons_of_mem x hy)
    rw [List.length_cons, runSteps_succ _ hs, hrest, List.append_assoc, List.singleton_append]

/-- The transfer that ends the event is made, and the scanline becomes the prior one (R381). -/
theorem step_drain_last {x : OutXfer} (hb : s.runState = .busy) (hh : s.host = []) (ho : s.offer = [x])
    (ha : x.accepted s = true) (he : x.endsScanline = true) : step s = .next { s with
      offer := [], log := s.log ++ [x]
      flt := { s.flt with pend := [], prior := s.flt.cur, row := s.flt.row + 1#32 } } := by
  rw [step_drain hb hh ho]
  simp [drain, accept, ha, he, advanceScanline]

theorem statusRow_of_busy (h : s.runState = .busy) : s.statusRow = some s.flt.row := by
  simp [State.statusRow, State.done, h]

/-- The run of a whole event, up to each transfer and to the end. -/
theorem runSteps_scanline {l : List OutXfer} (hb : s.runState = .busy) (hh : s.host = []) (ho : s.offer = l)
    (ha : ∀ x ∈ l, x.accepted s = true)
    (hl : ∃ init x, l = init ++ [x] ∧ x.endsScanline = true ∧ ∀ y ∈ init, y.endsScanline = false) :
    (∀ n, n < l.length → runSteps n s = .next { s with offer := l.drop n, log := s.log ++ l.take n }) ∧
    runSteps l.length s = .next { s with
      offer := [], log := s.log ++ l
      flt := { s.flt with pend := [], prior := s.flt.cur, row := s.flt.row + 1#32 } } := by
  obtain ⟨init, x, rfl, hx, hinit⟩ := hl
  have part : ∀ n, n < (init ++ [x]).length →
      runSteps n s = .next { s with offer := (init ++ [x]).drop n, log := s.log ++ (init ++ [x]).take n } := by
    intro n hn
    have hn' : n ≤ init.length := by simpa [Nat.lt_succ_iff] using hn
    have htake : (init ++ [x]).take n = init.take n := List.take_append_of_le_length hn'
    have h := runSteps_drain ((init ++ [x]).take n) ((init ++ [x]).drop n) hb hh (by rw [List.take_append_drop, ho])
      fun y hy => ⟨ha y (List.mem_of_mem_take hy), hinit y (List.mem_of_mem_take (htake ▸ hy))⟩
    rwa [List.length_take, min_eq_left hn.le] at h
  refine ⟨part, ?_⟩
  have h := part init.length (by simp)
  simp only [List.drop_left, List.take_left] at h
  have hlast := step_drain_last (s := { s with offer := [x], log := s.log ++ init }) hb hh rfl (ha x (by simp)) hx
  rw [List.length_append, List.length_singleton, runSteps_add 1 h, runSteps_succ 0 hlast, List.append_assoc]
  rfl

/-! ## Settled -/

/-- Settles O43: the columns by recursion on the bytes, the run by the drain of all transfers but the last. -/
theorem scanlineTransfers : Obligations.ScanlineTransfers := by
  refine ⟨fun row bytes => ⟨fun hne => ?_, rfl⟩, fun s bytes hb hh hr ho => ?_⟩
  · rw [scanXfers_of_ne_nil row hne]
    exact ⟨scanColumns_length row true bytes, fun x hx => by simpa using scanColumns_getElem? row true bytes x hx⟩
  · have ha : ∀ x ∈ scanXfers s.flt.row bytes, x.accepted s = true := fun x hx => by
      obtain ⟨data, f, l, e, rfl⟩ := scanXfers_scan _ _ x hx
      exact hr
    obtain ⟨part, whole⟩ := runSteps_scanline hb hh ho ha (scanXfers_ends s.flt.row bytes)
    exact ⟨fun n hn => ⟨_, part n hn, rfl, statusRow_of_busy hb⟩, whole⟩

end Sys2Proof.Machine
end

section
/-! PROOFS. The status port (R23, R65, R430, R431): when its outputs are defined, and that a latched error is never
shown as a success. -/

namespace Sys2Proof.Machine

variable {s : State}

/-! ## The outputs as functions of STATE and of the error registers -/

theorem busy_iff (s : State) : s.busy = true ↔ s.runState = .busy := decide_eq_true_iff

theorem done_iff (s : State) : s.done = true ↔ s.runState = .done := decide_eq_true_iff

theorem succeeded_iff (s : State) : s.succeeded = true ↔ s.runState = .done ∧ s.errors = (0#4, 0#3, 0#3) := by
  simp [State.succeeded, done_iff, State.errors, and_assoc]

theorem statusErrors_iff (s : State) (e : BitVec 4 × BitVec 3 × BitVec 3) :
    s.statusErrors = some e ↔ s.runState = .done ∧ e = s.errors := by
  simp only [State.statusErrors, Option.ite_none_right_eq_some, done_iff, Option.some.injEq, State.errors,
    eq_comm (a := e)]

theorem statusPos_iff (s : State) (p : Nat) :
    s.statusPos = some p ↔ s.runState = .done ∧ s.errors = (0#4, 0#3, 0#3) ∧ p = s.pos := by
  simp only [State.statusPos, Option.ite_none_right_eq_some, succeeded_iff, Option.some.injEq, and_assoc,
    eq_comm (a := p)]

/-- `row` is undefined exactly at DONE with an error (R431). -/
theorem rowHidden_iff (s : State) :
    (s.done && !s.succeeded) = true ↔ ¬ (s.runState = .done → s.errors = (0#4, 0#3, 0#3)) := by
  rw [Bool.and_eq_true, done_iff, Bool.not_eq_true', ← Bool.not_eq_true, succeeded_iff]
  tauto

theorem statusRow_iff (s : State) (r : Word) :
    s.statusRow = some r ↔ (s.runState = .done → s.errors = (0#4, 0#3, 0#3)) ∧ r = s.flt.row := by
  simp only [State.statusRow, Option.ite_none_left_eq_some, rowHidden_iff, not_not, Option.some.injEq,
    eq_comm (a := r)]

/-! ## After the latch -/

/-- The latch leaves an error register that is not 0: no kind has the code 0 (R401 to R403). -/
theorem latch_errors_ne (k : ErrKind) (s : State) : (latch k s).errors ≠ (0#4, 0#3, 0#3) := by
  cases k with
  | deflate d => cases hm : s.mode <;> simp [latch, hm, State.errors, d.code_ne]
  | zlib z => cases hm : s.mode <;> simp [latch, hm, State.errors, z.code_legal]
  | png p => simp [latch, State.errors, p.code_legal]

theorem latch_succeeded (k : ErrKind) (s : State) : (latch k s).succeeded = false :=
  Bool.eq_false_iff.mpr fun h => latch_errors_ne k s ((succeeded_iff _).mp h).2

/-! ## Settled -/

/-- Settles O60: each output by its definition; after the latch by `latch_errors_ne`. -/
theorem statusPort : Obligations.StatusPort := by
  refine ⟨fun s => ⟨busy_iff s, done_iff s, succeeded_iff s, statusErrors_iff s, statusPos_iff s,
    statusRow_iff s, rfl⟩,
    fun k s => ?_⟩
  have hd : (latch s k).done = true := (done_iff _).mpr (latch_runState s k)
  have hn := latch_succeeded s k
  refine ⟨?_, hd, hn, (statusErrors_iff _ _).mpr ⟨latch_runState s k, rfl⟩, latch_errors_ne s k, ?_, ?_, ?_⟩
  · simp [State.busy]
  · simp [State.statusPos, hn]
  · simp [State.statusRow, hd, hn]
  · simp [State.statusFerr]

end Sys2Proof.Machine
end

section
/-! PROOFS. The window (R30, R79, R82, R185): an element leaves it, stores a literal in it or starts a stream in it, and
a pass leaves it or stores a byte in it; each of these keeps its form, its counters and the bytes a match may read. -/

namespace Sys2Proof.Machine

variable {s t : State} {i : Instr}

/-! ## What an element does to the window -/

/-- The window of `t` is that of `s`, as it was, with one literal stored (R216), or at the start of a stream (R185). -/
inductive WindowUse (i : Instr) (s t : State) : Prop where
  | kept (h : t.win = s.win)
  | stored (b : Byte) (hi : i = .lit b) (h : t.win = s.win.push b)
  | begun (hi : i.fmt = .zh ∨ i.fmt = .zd) (h : t.win = { s.win with wr := 0#15, fill := 0, total := 0 })

/-- An element that raises may first have written other registers. -/
theorem windowUse_raise {k : ErrKind} {s' : State} (h : s'.win = s.win) : Answers (WindowUse i s) (raise k s') :=
  .raise (.kept ((latch_win k s').trans h))

theorem repeatLen_windowUse (count : Nat) (l : BitVec 4) (s : State) :
    Answers (WindowUse i s) (repeatLen count l s) :=
  .ite (fun _ => windowUse_raise rfl) fun _ => .next (.kept (appendLens_win ..))

theorem execClRep_windowUse (e : BitVec 2) (s : State) : Answers (WindowUse i s) (execClRep e s) := by
  unfold execClRep
  split
  · exact windowUse_raise rfl
  · exact repeatLen_windowUse _ _ s

theorem distanceSymbol_windowUse (dsym : BitVec 5) (mdist : Nat) (s : State) :
    Answers (WindowUse i s) (distanceSymbol dsym mdist s) :=
  .ite (fun _ => windowUse_raise rfl) fun _ => .next (.kept rfl)

theorem zlibHeader_windowUse (hi : i.fmt = .zh) (cmf flg : Byte) (s : State) :
    Answers (WindowUse i s) (zlibHeader cmf flg s) :=
  .ite (fun _ => windowUse_raise rfl) fun _ =>
    .ite (fun _ => windowUse_raise rfl) fun _ =>
      .ite (fun _ => .next (.kept rfl)) fun _ => .next (.begun (.inl hi) rfl)

theorem execZlibTrailer_windowUse (a : Word) (s : State) : Answers (WindowUse i s) (execZlibTrailer a s) := by
  refine .ite (fun _ => windowUse_raise rfl) fun _ => ?_
  unfold endFrame
  split
  · exact .next (.kept rfl)
  · exact .next (.kept rfl)
  · exact .ite (fun _ => windowUse_raise rfl) fun _ => .next (.kept rfl)

theorem notFirst_windowUse {s' : State} {k : Res} (h : s'.win = s.win) (hk : Answers (WindowUse i s) k) :
    Answers (WindowUse i s) (notFirst s' k) := .ite (fun _ => windowUse_raise h) fun _ => hk

theorem execIhdrPayload_windowUse (w h : Word) (d c m f il : Byte) (s : State) :
    Answers (WindowUse i s) (execIhdrPayload w h d c m f il s) := by
  unfold execIhdrPayload
  dsimp only
  split
  · exact windowUse_raise rfl
  · exact .ite (fun _ => .next (.kept rfl)) fun _ => .refused _

theorem Effect.windowUse {r : Res} (he : Effect s i r) : Answers (WindowUse i s) r := by
  cases he with
  | blkStored f => exact .next (.kept (alignToByte_win (blockHeader f 0#2 s)))
  | blkFixed f => exact .next (.kept rfl)
  | blkDyn f => exact .next (.kept rfl)
  | blkRsvd f => exact windowUse_raise rfl
  | storedHdr l n => exact .ite (fun _ => windowUse_raise rfl) fun _ => .next (.kept rfl)
  | dynHdr l d c => exact .next (.kept rfl)
  | dynCll ls => exact .next (.kept rfl)
  | clLen l => exact .next (.kept (appendLens_win ..))
  | clRep e => exact execClRep_windowUse e s
  | clZero _ count => exact repeatLen_windowUse count 0#4 s
  | lit b => exact .next (.stored b rfl (emit_win ..))
  | eob => exact .next (.kept (endBlock_win { s with inf := { s.inf with sym := 256#9 } }))
  | llInv o => exact windowUse_raise rfl
  | length => exact .next (.kept rfl)
  | dist _ dsym mdist => exact distanceSymbol_windowUse dsym mdist s
  | distInv o => exact windowUse_raise rfl
  | zlib _ cmf flg hi => exact zlibHeader_windowUse hi cmf flg s
  | dictid id => exact .next (.begun (.inr rfl) rfl)
  | trailer a => exact execZlibTrailer_windowUse a s
  | sig b => exact .ite (fun _ => windowUse_raise rfl) fun _ => .next (.kept rfl)
  | chunkIhdr l =>
    exact .ite (fun _ => .ite (fun _ => windowUse_raise rfl) fun _ => .next (.kept rfl)) fun _ => windowUse_raise rfl
  | chunkIdat l => exact notFirst_windowUse rfl (.ite (fun _ => .next (.kept rfl)) fun _ => .next (.kept rfl))
  | chunkIend l => exact notFirst_windowUse rfl (.next (.kept rfl))
  | chunkAnc l c => exact notFirst_windowUse rfl (.next (.kept rfl))
  | chunkCrit l c => exact notFirst_windowUse rfl (windowUse_raise rfl)
  | ihdr w h d c m f il => exact execIhdrPayload_windowUse w h d c m f il s
  | filter _ l u p => exact .ite (fun _ => .next (.kept rfl)) fun _ => .fault _
  | fltInv b => exact .next (.kept rfl)

theorem exec_windowUse (i : Instr) (s : State) : Answers (WindowUse i s) (exec i s) := (exec_effect i s).windowUse

/-! ## What every step keeps of it -/

/-- The three clauses of the invariant that speak of the window, as the window's own property. -/
theorem winOk_iff (s : State) : WinOk s.win ↔ WindowCanonical s ∧ WindowCounters s ∧ WindowValid s :=
  ⟨fun h => ⟨⟨h.wf, h.out⟩, ⟨h.fill, h.wr⟩, h.valid⟩,
    fun ⟨⟨hwf, hout⟩, ⟨hfill, hwr⟩, hvalid⟩ => ⟨hwf, hout, hfill, hwr, hvalid⟩⟩

theorem WindowUse.keepsWinOk (hu : WindowUse i s t) (h : WinOk s.win) : WinOk t.win := by
  cases hu with
  | kept ht => exact ht ▸ h
  | stored b _ ht => exact ht ▸ winOk_push b s.win h
  | begun _ ht => exact ht ▸ winOk_init h

/-- A read leaves the window as it was. -/
theorem ConsumesSome.win (hc : ConsumesSome s t) : t.win = s.win := by
  obtain ⟨n, hn⟩ := hc
  rw [hn.frame]

theorem Pass.keepsWinOk (hp : Pass s t) (h : WinOk s.win) : WinOk t.win := by
  cases hp with
  | storedEnd _ ht => rw [ht, endBlock_win]; exact h
  | stored _ b r hr ht =>
    rw [ht, emit_win]
    exact winOk_push b r.win ((currentGet_consumes hr).win ▸ h)
  | copyEnd _ ht => exact ht ▸ h
  | copied _ b ht =>
    rw [ht, emit_win]
    exact winOk_push b s.win h
  | toChunk _ n _ ht => exact ht ▸ h
  | runEnd _ n _ ht => exact ht ▸ h
  | iend _ n _ ht => exact ht ▸ h
  | raised k _ ht => rw [ht, latch_win]; exact h
  | held ht => exact ht ▸ h

theorem BlockStep.keepsWinOk (hb : BlockStep s t) (h : WinOk s.win) : WinOk t.win := by
  cases hb with
  | idle _ ht => exact ht ▸ h
  | drain _ x rest _ ht => rw [ht, drain_win]; exact h
  | scanline _ _ _ ht => exact (exec_windowUse _ s t ht).keepsWinOk h
  | element _ _ _ f _ i r hr ht => exact (exec_windowUse i r t ht).keepsWinOk ((fetch_consumes hr).win ▸ h)
  | fail _ _ _ _ _ k _ ht => rw [ht, latch_win]; exact h
  | hold _ _ _ _ _ _ ht => exact ht ▸ h
  | operation _ _ _ _ ht => exact (runOperation_pass t ht).keepsWinOk h

theorem step_keepsWinOk (hs : step s = .next t) (h : WinOk s.win) : WinOk t.win := by
  cases step_cases hs with
  | rst _ _ ht => exact ht ▸ inv_reset.winOk
  | start _ mode _ _ _ _ ht => exact ht ▸ (inv_startState mode _).winOk
  | xfer _ _ _ _ _ ht => exact ht ▸ h
  | inEnd _ _ ht => exact ht ▸ h
  | obReady _ _ _ ht => exact ht ▸ h
  | slReady _ _ _ ht => exact ht ▸ h
  | pass _ _ hb => exact hb.keepsWinOk h
  | own _ hb => exact hb.keepsWinOk h

/-! ## Settled -/

/-- Settles O58: a push and the start of a stream keep `WinOk`, and nothing else writes the window. -/
theorem stepKeepsWindow : Obligations.StepKeepsWindow :=
  fun s t h hs => (winOk_iff t).mp (step_keepsWinOk hs ((winOk_iff s).mpr h))

/-- Settles O28: of the three uses only a literal's stores, and only a zlib header or a DICTID starts a stream. -/
theorem onlyLiteralsStore : Obligations.OnlyLiteralsStore := by
  intro s t i hlit he
  cases exec_windowUse i s t he with
  | kept h => exact ⟨fun a => by rw [h], fun _ _ => h⟩
  | stored b hi _ => exact absurd hi (hlit b)
  | begun hi h => exact ⟨fun a => by rw [h], fun hzh hzd => (hi.elim hzh hzd).elim⟩

end Sys2Proof.Machine
end

section
/-! PROOFS. No step reads a location without a value (R35, R82, R83): only a filter and the match copy read one, and the
invariant puts a byte there. -/

namespace Sys2Proof.Machine

variable {s : State} {i : Instr}

/-! ## Safe answers -/

theorem safe_ite {c : Prop} [Decidable c] {a b : Res} (ha : c → safeOutcome a) (hb : ¬ c → safeOutcome b) :
    safeOutcome (if c then a else b) := by
  split
  · exact ha ‹_›
  · exact hb ‹_›

theorem safe_raise (k : ErrKind) (s : State) : safeOutcome (raise k s) := trivial

theorem skipThen_safe (n : Nat) (s : State) (k : State → State) : safeOutcome (skipThen n s k) := by
  obtain ⟨-, e⟩ | ⟨-, -, e⟩ | ⟨-, -, e⟩ := skipThen_cases n s k <;> rw [e] <;> trivial

theorem repeatLen_safe (count : Nat) (l : BitVec 4) (s : State) : safeOutcome (repeatLen count l s) :=
  safe_ite (fun _ => safe_raise ..) fun _ => trivial

theorem execClRep_safe (e : BitVec 2) (s : State) : safeOutcome (execClRep e s) := by
  unfold execClRep
  split
  · exact safe_raise ..
  · exact repeatLen_safe ..

theorem endFrame_safe (s : State) : safeOutcome (endFrame s) := by
  unfold endFrame
  split
  · trivial
  · trivial
  · exact safe_ite (fun _ => safe_raise ..) fun _ => trivial

theorem notFirst_safe (s : State) {k : Res} (hk : safeOutcome k) : safeOutcome (notFirst s k) :=
  safe_ite (fun _ => safe_raise ..) fun _ => hk

/-- An image that passes the checks may still be larger than the buffers (D39). -/
theorem execIhdrPayload_safe (w h : Word) (d c m f il : Byte) (s : State) :
    safeOutcome (execIhdrPayload w h d c m f il s) := by
  unfold execIhdrPayload
  dsimp only
  split
  · exact safe_raise ..
  · exact safe_ite (fun _ => trivial) fun _ => rfl

/-! ## The bytes of a scanline (R35, R83) -/

/-- An accepted header has at least one byte per pixel (R353, R358). -/
theorem ihdrCheck_bpp_pos {h : Ihd} (hc : ihdrCheck h = none) : 0 < bytesPerPixel h.colour h.depth := by
  have hsamples : 0 < samplesPerPixel h.colour := by
    unfold samplesPerPixel
    split_ifs <;> omega
  unfold ihdrCheck at hc
  split_ifs at hc with _ _ hcd
  have hdepth : h.depth = 8#8 ∨ h.depth = 16#8 := by
    simp only [colourDepthOk, Bool.not_eq_false, Bool.and_eq_true, Bool.or_eq_true, decide_eq_true_eq] at hcd
    exact hcd.2
  rcases hdepth with e | e <;> simpa [bytesPerPixel, e] using hsamples

/-- When a scanline is complete every byte that a filter reads is there. -/
theorem AtWork.buffersOk (h : AtWork s) (hd : s.scanlineDue = true) (looksLeft looksUp : Bool) :
    Machine.buffersOk looksLeft looksUp s = true := by
  obtain ⟨-, hpend, hv, -⟩ := h.due hd
  have hbpp : 0 < s.ihd.bpp := by
    rw [(h.inv.headerLegal.derived hv).1]
    exact ihdrCheck_bpp_pos (h.inv.headerLegal.checked hv)
  have hprior : s.flt.row = 0#32 ∨ s.ihd.S ≤ s.flt.prior.length :=
    or_iff_not_imp_left.mpr fun hr => (h.inv.scanlineBuffers.prior hr).ge
  rcases hprior with hr | hp
  · simp [Machine.buffersOk, firstRow, hpend, hbpp, hr]
  · simp [Machine.buffersOk, hpend, hbpp, hp]

/-! ## Every element -/

/-- Only the filters of scanlines read a location that may hold no value. -/
theorem Effect.safe {r : Res} (he : Effect s i r)
    (hb : i.fmt = .fs → ∀ looksLeft looksUp, buffersOk looksLeft looksUp s = true) : safeOutcome r := by
  cases he with
  | blkStored f => trivial
  | blkFixed f => trivial
  | blkDyn f => trivial
  | blkRsvd f => trivial
  | storedHdr l n => exact safe_ite (fun _ => safe_raise ..) fun _ => trivial
  | dynHdr l d c => trivial
  | dynCll ls => trivial
  | clLen l => trivial
  | clRep e => exact execClRep_safe e s
  | clZero _ count => exact repeatLen_safe count 0#4 s
  | lit b => trivial
  | eob => trivial
  | llInv o => trivial
  | length => trivial
  | dist => exact safe_ite (fun _ => safe_raise ..) fun _ => trivial
  | distInv o => trivial
  | zlib =>
    exact safe_ite (fun _ => safe_raise ..) fun _ => safe_ite (fun _ => safe_raise ..) fun _ =>
      safe_ite (fun _ => trivial) fun _ => trivial
  | dictid id => trivial
  | trailer a => exact safe_ite (fun _ => safe_raise ..) fun _ => endFrame_safe _
  | sig b => exact safe_ite (fun _ => safe_raise ..) fun _ => trivial
  | chunkIhdr l =>
    exact safe_ite (fun _ => safe_ite (fun _ => safe_raise ..) fun _ => trivial) fun _ => safe_raise ..
  | chunkIdat l => exact notFirst_safe _ (safe_ite (fun _ => trivial) fun _ => trivial)
  | chunkIend l => exact notFirst_safe _ trivial
  | chunkAnc l c => exact notFirst_safe _ trivial
  | chunkCrit l c => exact notFirst_safe _ (safe_raise ..)
  | ihdr w h d c m f il => exact execIhdrPayload_safe w h d c m f il s
  | filter _ l u p hi => exact safe_ite (fun _ => trivial) fun hn => absurd (hb hi l u) hn
  | fltInv b => trivial

theorem exec_scanline_safe (h : AtWork s) (hd : s.scanlineDue = true) : safeOutcome (exec (fetchScanline s) s) :=
  (exec_effect _ s).safe fun _ => h.buffersOk hd

theorem Phase.fmt_ne_fs (p : Phase) : p.fmt ≠ some .fs := by cases p <;> nofun

/-- What a phase reads is no filtered scanline, so its meaning reads no scanline byte (R11, R372). -/
theorem runElement_safe {f : Fmt} (hf : s.phase.fmt = some f) : safeOutcome (runElement f s) := by
  unfold runElement
  split
  next i r hr =>
    exact (exec_effect i r).safe fun hi => absurd (hf.trans (congrArg some ((decode_fmt hr).symm.trans hi)))
      (Phase.fmt_ne_fs s.phase)
  next => exact safe_raise ..
  next => exact safe_raise ..
  next => trivial

/-! ## Every pass -/

theorem storedCopy_safe (s : State) : safeOutcome (storedCopy s) := by
  refine safe_ite (fun _ => trivial) fun _ => ?_
  split
  · trivial
  · exact safe_raise ..
  · exact safe_raise ..
  · trivial

/-- The distance of a copy in progress is legal, and every legal distance reaches a written byte (R82, R221). -/
theorem copyByte_safe (h : Inv s) (hp : s.phase = .copy) : safeOutcome (copyByte s) := by
  obtain ⟨h1, h2⟩ := h.copyLegal hp
  have hread : (Memory.read s.win.mem (s.win.addrBack s.inf.mdist)).isSome = true := h.windowValid _ h1 h2
  refine safe_ite (fun _ => trivial) fun _ => ?_
  split
  next hn => rw [hn] at hread; exact nomatch hread
  next => trivial

theorem runOperation_safe (h : Inv s) : safeOutcome (runOperation s) := by
  unfold runOperation
  split
  next => exact storedCopy_safe s
  next hp => exact copyByte_safe h hp
  next => exact skipThen_safe ..
  next => exact skipThen_safe ..
  next => exact skipThen_safe ..
  next => exact skipThen_safe ..
  all_goals trivial

/-! ## Every step -/

theorem runNext_safe (h : AtWork s) : safeOutcome (runNext s) := by
  refine safe_ite (exec_scanline_safe h) fun _ => ?_
  split
  next f hf => exact runElement_safe hf
  next => exact runOperation_safe h.inv

theorem blockStep_safe (h : Inv s) : safeOutcome (blockStep s) := by
  unfold blockStep
  split
  next => trivial
  next => trivial
  next hb =>
    split
    next => trivial
    next ho => exact runNext_safe ⟨h, hb, ho⟩

theorem hostStart_safe (m : BitVec 2) (s : State) : safeOutcome (hostStart m s) := by
  refine safe_ite (fun _ => trivial) fun _ => ?_
  split <;> trivial

theorem hostStep_safe (e : HostEvent) (h : Inv s) : safeOutcome (hostStep e s) := by
  cases e with
  | rst => trivial
  | start m => exact hostStart_safe m s
  | xfer b => exact safe_ite (fun _ => trivial) fun _ => safe_ite (fun _ => trivial) fun _ => trivial
  | inEnd => trivial
  | obReady r => trivial
  | slReady r => trivial
  | pass => exact blockStep_safe h

/-! ## Settled -/

/-- Settles O59: the host's actions stop only for its own misuse, and the block's own step reads only written bytes. -/
theorem stepsAreSafe : Obligations.StepsAreSafe := by
  intro s h
  unfold step cycle
  split
  next e rest _ => exact hostStep_safe e (h.setSurroundings s.inEnd s.fifo s.obReady s.slReady rest s.log)
  next => exact blockStep_safe h

end Sys2Proof.Machine
end

section
/-! PROOFS. Encoding and decoding (30_encoding.md): a read from a list of stream bits takes from its front the bits
that the encoder writes for the value read, first for the single reads, then for a symbol, then for each format. -/

namespace Sys2Proof

/-! ## A value is written with the bits it is read from (R70, R72, R73) -/

theorem bitsOfNat_natOfBits (l : List Bool) : bitsOfNat l.length (natOfBits l) = l := by
  induction l with
  | nil => rfl
  | cons b l ih =>
    have hhead : decide ((b.toNat + 2 * natOfBits l) % 2 = 1) = b := by cases b <;> simp
    have htail : (b.toNat + 2 * natOfBits l) / 2 = natOfBits l := by have := b.toNat_lt; omega
    simp only [List.length_cons, natOfBits, bitsOfNat, hhead, htail, ih]

theorem natOfBits_lt (l : List Bool) : natOfBits l < 2 ^ l.length := by
  induction l with
  | nil => simp [natOfBits]
  | cons b l ih =>
    have := b.toNat_lt
    simp only [natOfBits, List.length_cons, pow_succ]
    omega

theorem bitsOfNat_mod (n v : Nat) : bitsOfNat n (v % 2 ^ n) = bitsOfNat n v := by
  induction n generalizing v with
  | zero => rfl
  | succ n ih =>
    have hhead : v % 2 ^ (n + 1) % 2 = v % 2 := Nat.mod_mod_of_dvd v (Dvd.intro_left (2 ^ n) rfl)
    have htail : v % 2 ^ (n + 1) / 2 = v / 2 % 2 ^ n := by rw [pow_succ', Nat.mod_mul_right_div_self]
    simp only [bitsOfNat, hhead, htail, ih]

/-- A field of `n` bits is the low bits of the number it is made from. -/
theorem bitsOfNat_ofNat (n v : Nat) : bitsOfNat n (BitVec.ofNat n v).toNat = bitsOfNat n v := by
  rw [BitVec.toNat_ofNat, bitsOfNat_mod]

/-- One more bit of a Huffman code is its last stream bit (R73, R154). -/
theorem codeBits_succ (n c : Nat) {b : Nat} (hb : b < 2) :
    codeBits (n + 1) (2 * c + b) = codeBits n c ++ bitsOfNat 1 b := by
  have hdiv : (2 * c + b) / 2 = c := by omega
  have hmod : (2 * c + b) % 2 = b % 2 := by omega
  simp [codeBits, bitsOfNat, hdiv, hmod]

@[simp] theorem bitsOfBytes_append (a b : List Byte) : bitsOfBytes (a ++ b) = bitsOfBytes a ++ bitsOfBytes b := by
  induction a with
  | nil => rfl
  | cons x a ih => simp [bitsOfBytes, ih]

/-! ## The single reads -/

variable {l r s : List Bool} {n v : Nat}

theorem bits_takes (h : bitReader.bits n l = .got v r) : l = bitsOfNat n v ++ r ∧ v < 2 ^ n := by
  simp only [bitReader, listBits] at h
  split at h
  next hn =>
    cases h
    have hlen : (l.take n).length = n := List.length_take_of_le hn
    have hbits := bitsOfNat_natOfBits (l.take n)
    have hlt := natOfBits_lt (l.take n)
    rw [hlen] at hbits hlt
    exact ⟨by rw [hbits, List.take_append_drop], hlt⟩
  next => cases h

theorem byte_takes {b : Byte} (h : bitReader.byte l = .got b r) : l = bitsOfBytes [b] ++ r := by
  obtain ⟨v, hv, rfl⟩ := Rd.map_got h
  obtain ⟨hl, -⟩ := bits_takes hv
  simpa only [bitsOfBytes, bitsOfNat_ofNat, List.append_nil] using hl

/-- A big-endian read after the value `v` takes the bytes of the low part of its result, whose high part is `v` (R70). -/
theorem readBE_takes {w : Nat} (h : readBE bitReader n v l = .got w r) :
    l = bitsOfBytes (bytesBE n w) ++ r ∧ w / 256 ^ n = v := by
  induction n generalizing v l with
  | zero => cases h; exact ⟨rfl, by simp⟩
  | succ n ih =>
    obtain ⟨b, s, hb, h⟩ := Rd.bind_got h
    obtain ⟨hs, hw⟩ := ih h
    have hhead : BitVec.ofNat 8 (w / 256 ^ n) = b := by
      apply BitVec.eq_of_toNat_eq
      have := b.isLt
      rw [hw, BitVec.toNat_ofNat]
      omega
    have hhigh : w / 256 ^ (n + 1) = v := by
      have := b.isLt
      rw [pow_succ, ← Nat.div_div_eq_div_mul, hw]
      omega
    refine ⟨?_, hhigh⟩
    rw [byte_takes hb, hs]
    simp [bytesBE, hhead, bitsOfBytes]

/-- A field of `n` bytes fits its bit vector. -/
theorem field_takes {w : Nat} (h : readBE bitReader n 0 l = .got w r) :
    l = bitsOfBytes (bytesBE n (BitVec.ofNat (8 * n) w).toNat) ++ r := by
  have hlt : w < 2 ^ (8 * n) := by simpa [pow_mul] using readBE_lt h
  rw [BitVec.toNat_ofNat, Nat.mod_eq_of_lt hlt]
  exact (readBE_takes h).1

theorem readCll_takes {ls : List (BitVec 3)} (h : readCll bitReader n l = .got ls r) :
    l = (ls.flatMap fun x => bitsOfNat 3 x.toNat) ++ r := by
  induction n generalizing l ls with
  | zero => cases h; rfl
  | succ n ih =>
    obtain ⟨x, s, hx, h⟩ := Rd.bind_got h
    obtain ⟨xs, hxs, rfl⟩ := Rd.map_got h
    rw [(bits_takes hx).1, ih hxs]
    simp only [List.flatMap_cons, bitsOfNat_ofNat, List.append_assoc]

/-! ## A symbol (R108, R172) -/

theorem lookup_some {T : HufTable} {L c i : Nat} (h : T.lookup L c = some i) :
    ∃ e, T.entries[i]? = some e ∧ e.len.toNat = L ∧ e.code.map BitVec.toNat = some c := by
  unfold HufTable.lookup at h
  split at h
  next => cases h
  next =>
    obtain ⟨hi, he, -⟩ := List.findIdx?_eq_some_iff_getElem.1 h
    simp only [Bool.and_eq_true, decide_eq_true_eq] at he
    exact ⟨T.entries[i], List.getElem?_eq_getElem hi, he⟩

theorem symbolBits_of_lookup {T : HufTable} {L c i : Nat} (h : T.lookup L c = some i) :
    T.symbolBits i = some (codeBits L c) := by
  obtain ⟨⟨len, code⟩, he, rfl, hc⟩ := lookup_some h
  obtain ⟨k, rfl, rfl⟩ := Option.map_eq_some_iff.1 hc
  simp [HufTable.symbolBits, he]

/-- Bits read one by one extend the code `c` of `k` bits to that of the result. -/
theorem huffBits_takes {k c : Nat} (h : huffBits bitReader n c l = .got v r) :
    codeBits k c ++ l = codeBits (k + n) v ++ r := by
  induction n generalizing k c l with
  | zero => cases h; rfl
  | succ n ih =>
    obtain ⟨b, s, hb, h⟩ := Rd.bind_got h
    obtain ⟨hl, hlt⟩ := bits_takes hb
    rw [hl, ← List.append_assoc, ← codeBits_succ k c hlt, ih h, Nat.add_right_comm, Nat.add_assoc]

/-- The loop extends the code of `L` bits read so far until it is that of a symbol. -/
theorem decodeLoop_takes {T : HufTable} {fuel L c i : Nat} (h : decodeLoop bitReader T fuel L c l = .got i r) :
    ∃ L' c', T.lookup L' c' = some i ∧ codeBits L c ++ l = codeBits L' c' ++ r := by
  induction fuel generalizing L c l with
  | zero =>
    unfold decodeLoop at h
    split at h
    next j hj => cases h; exact ⟨L, c, hj, rfl⟩
    next => cases h
  | succ fuel ih =>
    unfold decodeLoop at h
    split at h
    next j hj => cases h; exact ⟨L, c, hj, rfl⟩
    next =>
      obtain ⟨b, s, hb, h⟩ := Rd.bind_got h
      obtain ⟨hl, hlt⟩ := bits_takes hb
      rw [hl, ← List.append_assoc, ← codeBits_succ L c hlt]
      exact ih h

theorem decodeSymbol_takes {T : HufTable} {i : Nat} (h : decodeSymbol bitReader T l = .got i r) :
    ∃ L c, T.lookup L c = some i ∧ l = codeBits L c ++ r := by
  obtain ⟨c, s, hc, h⟩ := Rd.bind_got h
  obtain ⟨L', c', hlook, hs⟩ := decodeLoop_takes h
  have hl : l = codeBits (0 + T.min) c ++ s := huffBits_takes (k := 0) hc
  exact ⟨L', c', hlook, by rw [hl, Nat.zero_add, hs]⟩

/-! ## What a format's read takes is the word of its element -/

/-- The list `l` is the word, which exists, and then `r`. -/
def StartsWith (l : List Bool) (word : Option (List Bool)) (r : List Bool) : Prop :=
  ∃ w, word = some w ∧ l = w ++ r

theorem StartsWith.word {w : List Bool} (h : l = w ++ r) : StartsWith l (some w) r := ⟨w, rfl, h⟩

/-- A field is the same whether its value is given or the bit vector made from it. -/
theorem symbolWord_ofNat (T : HufTable) (sym n e : Nat) :
    symbolWord T sym n (BitVec.ofNat n e).toNat = symbolWord T sym n e := by
  simp only [symbolWord, bitsOfNat_ofNat]

/-- Without extra bits the word is the code alone. -/
@[simp] theorem symbolWord_noExtra (T : HufTable) (sym e : Nat) : symbolWord T sym 0 e = T.symbolBits sym := by
  simp [symbolWord, bitsOfNat]

theorem symbol_startsWith {T : HufTable} {sym : Nat} (h : decodeSymbol bitReader T l = .got sym r) :
    StartsWith l (T.symbolBits sym) r := by
  obtain ⟨L, c, hlook, hl⟩ := decodeSymbol_takes h
  exact ⟨_, symbolBits_of_lookup hlook, hl⟩

theorem symbolExtra_startsWith {T : HufTable} {sym e : Nat} (h : decodeSymbol bitReader T l = .got sym s)
    (he : bitReader.bits n s = .got e r) : StartsWith l (symbolWord T sym n e) r := by
  obtain ⟨w, hw, rfl⟩ := symbol_startsWith h
  obtain ⟨rfl, -⟩ := bits_takes he
  exact ⟨w ++ bitsOfNat n e, by simp [symbolWord, hw], by simp⟩

/-! ## The word of each row, by the fields the format reads -/

variable (c : Ctx)

theorem encode_blockInstr (f : Bool) {b : Nat} (hb : b < 4) : encode c (blockInstr f b) = blockWord f b := by
  interval_cases b <;> rfl

theorem encode_lengthInstr {i : Nat} (hi : i < 29) (e : Nat) :
    encode c (lengthInstr i e) = symbolWord c.ll (257 + i) (lengthExtra.getD i 0) e := by
  interval_cases i <;> simp [lengthInstr, encode, lengthExtra, symbolWord_ofNat, -BitVec.toNat_ofNat]

theorem encode_distInstr {d : Nat} (hd : d < 30) (e : Nat) :
    encode c (distInstr d e) = symbolWord c.dt d (distExtra.getD d 0) e := by
  interval_cases d <;> simp [distInstr, encode, distExtra, symbolWord_ofNat, -BitVec.toNat_ofNat]

theorem encode_zlibInstr (cmf flg : Byte) : encode c (zlibInstr cmf flg) = some (bitsOfBytes [cmf, flg]) := by
  unfold zlibInstr
  split_ifs <;> rfl

theorem encode_chunkInstr (len ctype : Word) : encode c (chunkInstr len ctype) = chunkWord len ctype := by
  unfold chunkInstr
  split_ifs with h h h <;> simp only [encode, h]

theorem encode_filterInstr (t : Byte) : encode c (filterInstr t) = some (bitsOfBytes [t]) := by
  unfold filterInstr
  split_ifs with h h h h h <;> simp only [encode, h]

/-! ## The formats of symbols (R105 to R107) -/

variable {c} {i : Instr}

theorem decodeCls_startsWith (hc : ∀ e, i = .clRep e → c.nlens ≠ 0) (h : decodeCls bitReader c l = .got i r) :
    StartsWith l (encode c i) r := by
  obtain ⟨sym, s, hs, h⟩ := Rd.bind_got h
  split at h
  next hle =>
    cases h
    have hsym : sym % 16 = sym := by omega
    simpa [encode, hsym] using symbol_startsWith hs
  split at h
  next h16 =>
    subst h16
    split at h
    next h0 => cases h; exact absurd h0 (hc _ rfl)
    next =>
      obtain ⟨e, he, rfl⟩ := Rd.map_got h
      simpa only [encode, symbolWord_ofNat] using symbolExtra_startsWith hs he
  split at h
  next h17 =>
    subst h17
    obtain ⟨e, he, rfl⟩ := Rd.map_got h
    simpa only [encode, symbolWord_ofNat] using symbolExtra_startsWith hs he
  split at h
  next h18 =>
    subst h18
    obtain ⟨e, he, rfl⟩ := Rd.map_got h
    simpa only [encode, symbolWord_ofNat] using symbolExtra_startsWith hs he
  next => cases h

theorem decodeLls_startsWith (h : decodeLls bitReader c l = .got i r) : StartsWith l (encode c i) r := by
  obtain ⟨sym, s, hs, h⟩ := Rd.bind_got h
  split at h
  next hle =>
    cases h
    have hsym : sym % 256 = sym := by omega
    simpa [encode, hsym] using symbol_startsWith hs
  split at h
  next h256 => cases h; subst h256; simpa only [encode, symbolWord_noExtra] using symbol_startsWith hs
  split at h
  next hlt hne hle =>
    obtain ⟨e, he, rfl⟩ := Rd.map_got h
    have hsym : 257 + (sym - 257) = sym := by omega
    rw [encode_lengthInstr c (by omega), hsym]
    exact symbolExtra_startsWith hs he
  split at h
  next =>
    cases h
    have hsym : 286 + (decide (sym = 287)).toNat = sym := by
      rcases (by omega : sym = 286 ∨ sym = 287) with rfl | rfl <;> rfl
    simpa only [encode, symbolWord_noExtra, hsym] using symbol_startsWith hs
  next => cases h

theorem decodeDs_startsWith (h : decodeDs bitReader c l = .got i r) : StartsWith l (encode c i) r := by
  obtain ⟨sym, s, hs, h⟩ := Rd.bind_got h
  split at h
  next hle =>
    obtain ⟨e, he, rfl⟩ := Rd.map_got h
    rw [encode_distInstr c (by omega)]
    exact symbolExtra_startsWith hs he
  split at h
  next =>
    cases h
    have hsym : 30 + (decide (sym = 31)).toNat = sym := by
      rcases (by omega : sym = 30 ∨ sym = 31) with rfl | rfl <;> rfl
    simpa only [encode, symbolWord_noExtra, hsym] using symbol_startsWith hs
  next => cases h

/-! ## Every format -/

/-- What any format's read takes from the front of the list is the word of the element it gives. -/
theorem decode_startsWith {f : Fmt} (hc : ∀ e, i = .clRep e → c.nlens ≠ 0) (h : decode bitReader c f l = .got i r) :
    StartsWith l (encode c i) r := by
  cases f with
  | bh =>
    obtain ⟨b, s, hb, h⟩ := Rd.bind_got h
    obtain ⟨t, ht, rfl⟩ := Rd.map_got h
    obtain ⟨rfl, hb2⟩ := bits_takes hb
    obtain ⟨rfl, ht4⟩ := bits_takes ht
    have hbit : decide (b % 2 = 1) = decide (b = 1) := by
      rw [Nat.mod_eq_of_lt (show b < 2 from hb2)]
    rw [encode_blockInstr c _ ht4]
    exact .word (by simp [bitsOfNat, hbit])
  | sh =>
    obtain ⟨x, s, hx, h⟩ := Rd.bind_got h
    obtain ⟨y, hy, rfl⟩ := Rd.map_got h
    rw [(bits_takes hx).1, (bits_takes hy).1]
    exact .word (by simp only [bitsOfNat_ofNat, List.append_assoc])
  | dh =>
    obtain ⟨x, s, hx, h⟩ := Rd.bind_got h
    obtain ⟨y, s', hy, h⟩ := Rd.bind_got h
    obtain ⟨z, hz, rfl⟩ := Rd.map_got h
    rw [(bits_takes hx).1, (bits_takes hy).1, (bits_takes hz).1]
    exact .word (by simp only [bitsOfNat_ofNat, List.append_assoc])
  | cll =>
    obtain ⟨ls, hls, rfl⟩ := Rd.map_got h
    exact .word (readCll_takes hls)
  | cls => exact decodeCls_startsWith hc h
  | lls => exact decodeLls_startsWith h
  | ds => exact decodeDs_startsWith h
  | zh =>
    obtain ⟨x, s, hx, h⟩ := Rd.bind_got h
    obtain ⟨y, hy, rfl⟩ := Rd.map_got h
    rw [encode_zlibInstr, byte_takes hx, byte_takes hy]
    exact .word (by rw [← List.append_assoc, ← bitsOfBytes_append]; rfl)
  | zd | zt | sig =>
    obtain ⟨x, hx, rfl⟩ := Rd.map_got h
    exact .word (field_takes hx)
  | ch =>
    obtain ⟨x, s, hx, h⟩ := Rd.bind_got h
    obtain ⟨y, hy, rfl⟩ := Rd.map_got h
    rw [encode_chunkInstr, field_takes hx, field_takes hy]
    exact .word (by simp only [bitsOfBytes_append, List.append_assoc])
  | ih =>
    obtain ⟨w, s1, hw, h⟩ := Rd.bind_got h
    obtain ⟨ht, s2, hht, h⟩ := Rd.bind_got h
    obtain ⟨d, s3, hd, h⟩ := Rd.bind_got h
    obtain ⟨k, s4, hk, h⟩ := Rd.bind_got h
    obtain ⟨m, s5, hm, h⟩ := Rd.bind_got h
    obtain ⟨f, s6, hf, h⟩ := Rd.bind_got h
    obtain ⟨j, hj, rfl⟩ := Rd.map_got h
    rw [field_takes hw, field_takes hht, byte_takes hd, byte_takes hk, byte_takes hm, byte_takes hf, byte_takes hj]
    exact .word (by simp only [bitsOfBytes_append, bitsOfBytes, List.append_assoc, List.append_nil])
  | fs =>
    obtain ⟨x, hx, rfl⟩ := Rd.map_got h
    rw [encode_filterInstr]
    exact .word (byte_takes hx)

/-! ## Settled -/

/-- Settles O4: bit by bit for a symbol's code, field by field for the rest. -/
theorem decodeConsumesTheEncoding : Obligations.DecodeConsumesTheEncoding :=
  fun _ _ _ _ _ h hc => decode_startsWith hc h

end Sys2Proof
end

section
/-! PROOFS. What the decoder reads is well formed (R119, R121, R122): the only rows with a condition of their own are
those that a format tells apart by the fields it has read. -/

namespace Sys2Proof.Machine

theorem wellFormed_zlibInstr (cmf flg : Byte) : (zlibInstr cmf flg).wellFormed = true := by
  unfold zlibInstr
  split_ifs with hcm hd <;> simp_all [Instr.wellFormed]

theorem wellFormed_chunkInstr (len ctype : Word) : (chunkInstr len ctype).wellFormed = true := by
  unfold chunkInstr typeIhdr typeIdat typeIend
  split_ifs <;> simp_all [Instr.wellFormed, unknownType]

theorem wellFormed_filterInstr (t : Byte) : (filterInstr t).wellFormed = true := by
  unfold filterInstr
  split_ifs with h0 h1 h2 h3 h4
  all_goals simp only [Instr.wellFormed, decide_eq_true_eq]
  bv_omega

/-- Every other row leaves its operands free. -/
theorem wellFormed_of_fmt {i : Instr} (h : i.fmt ∉ [Fmt.cll, .zh, .ch, .fs]) : i.wellFormed = true := by
  cases i
  case dynCll | zlibHdr | zlibHdrFdict | zlibHdrBadcm | chunkAnc | chunkCrit | fltInv => simp [Instr.fmt] at h
  all_goals rfl

theorem readCll_length {σ : Type} {R : Reader σ} {n : Nat} {s t : σ} {ls : List (BitVec 3)}
    (h : readCll R n s = .got ls t) : ls.length = n := by
  induction n generalizing s ls with
  | zero => cases h; rfl
  | succ n ih =>
    obtain ⟨x, _, -, h⟩ := Rd.bind_got h
    obtain ⟨xs, hxs, rfl⟩ := Rd.map_got h
    rw [List.length_cons, ih hxs]

theorem decode_wellFormed {σ : Type} {R : Reader σ} {c : Ctx} {f : Fmt} {s t : σ} {i : Instr}
    (h4 : 4 ≤ c.hclen) (h19 : c.hclen ≤ 19) (h : decode R c f s = .got i t) : i.wellFormed = true := by
  have hf : i.fmt = f := decode_fmt h
  cases f with
  | cll =>
    obtain ⟨ls, hls, rfl⟩ := Rd.map_got h
    simp only [Instr.wellFormed, readCll_length hls, h4, h19, decide_true, Bool.and_self]
  | zh =>
    obtain ⟨cmf, _, _, h⟩ := Rd.bind_got h
    obtain ⟨flg, _, rfl⟩ := Rd.map_got h
    exact wellFormed_zlibInstr cmf flg
  | ch =>
    obtain ⟨len, _, _, h⟩ := Rd.bind_got h
    obtain ⟨ctype, _, rfl⟩ := Rd.map_got h
    exact wellFormed_chunkInstr _ _
  | fs =>
    obtain ⟨b, _, rfl⟩ := Rd.map_got h
    exact wellFormed_filterInstr b
  | bh | sh | dh | cls | lls | ds | zd | zt | sig | ih => exact wellFormed_of_fmt (by rw [hf]; decide)

/-- Settles O3: the format is `decode_fmt`; the conditions of a row are those of the test that picks it. -/
theorem decodedElementsAreWellFormed : Obligations.DecodedElementsAreWellFormed :=
  fun _ _ _ _ _ _ _ h4 h19 h => ⟨decode_wellFormed h4 h19 h, decode_fmt h⟩

end Sys2Proof.Machine
end

section
/-! PROOFS. The encoding at fixed tables and words: the codes of R109 and R110, whose symbols lie in runs of equal
length and so take consecutive codes, and ten words written out. -/

namespace Sys2Proof

/-- `n` symbols in a row of the length `l`, with the codes from `first` on (R168). -/
def codeRun (n : Nat) (l : BitVec 4) (first : Nat) : List HufEntry :=
  (List.range n).map fun i => ⟨l, some (BitVec.ofNat 15 ((first + i) % 2 ^ l.toNat))⟩

variable {n first sym : Nat} {l : BitVec 4}

@[simp] theorem codeRun_length : (codeRun n l first).length = n := by simp [codeRun]

theorem codeRun_succ : codeRun (n + 1) l first =
    ⟨l, some (BitVec.ofNat 15 (first % 2 ^ l.toNat))⟩ :: codeRun n l (first + 1) := by
  simp [codeRun, List.range_succ_eq_map, Nat.add_assoc, Nat.add_comm 1]

/-- The build gives equal lengths in a row the codes from `next_code` of that length on. -/
theorem assignCodes_run (hl : l.toNat ≠ 0) (rest : List (BitVec 4)) {next : List Nat}
    (hn : next[l.toNat - 1]? = some first) :
    (assignCodes (List.replicate n l ++ rest) next).1 =
      codeRun n l first ++ (assignCodes rest (next.set (l.toNat - 1) (first + n))).1 := by
  induction n generalizing next first with
  | zero =>
    obtain ⟨hlt, rfl⟩ := List.getElem?_eq_some_iff.1 hn
    simp [codeRun]
  | succ n ih =>
    obtain ⟨hlt, -⟩ := List.getElem?_eq_some_iff.1 hn
    have hrest := ih (next := next.set (l.toNat - 1) (first + 1)) (List.getElem?_set_self hlt)
    have hfirst : next.getD (l.toNat - 1) 0 = first := by rw [List.getD_eq_getElem?_getD, hn, Option.getD_some]
    rw [List.replicate_succ, List.cons_append, codeRun_succ, assignCodes, if_neg hl, hfirst]
    simp [hrest, Nat.add_assoc, Nat.add_comm 1]

/-- A symbol's bits, by its place in the run it belongs to, whose first symbol is `start`. -/
theorem symbolBits_run {T : HufTable} {pre : List HufEntry} {start : Nat} (hT : pre ++ codeRun n l first <+: T.entries)
    (hpre : pre.length = start) (hfit : first + n ≤ 2 ^ l.toNat) (hlo : start ≤ sym) (hhi : sym < start + n) :
    T.symbolBits sym = some (codeBits l.toNat (first + (sym - start))) := by
  subst hpre
  obtain ⟨post, hT⟩ := hT
  have hi : sym - pre.length < n := by omega
  have hcode : first + (sym - pre.length) < 2 ^ l.toNat := by omega
  have h15 : 2 ^ l.toNat ≤ 2 ^ 15 := Nat.pow_le_pow_right (by omega) (by have := l.isLt; omega)
  have hentry : T.entries[sym]? = some ⟨l, some (BitVec.ofNat 15 (first + (sym - pre.length)))⟩ := by
    rw [← hT, List.append_assoc, List.getElem?_append_right hlo, List.getElem?_append_left (by simpa using hi)]
    simp [codeRun, hi, Nat.mod_eq_of_lt hcode]
  rw [HufTable.symbolBits, hentry, Option.bind_some, Option.map_some, BitVec.toNat_ofNat,
    Nat.mod_eq_of_lt (hcode.trans_le h15)]

/-- `next_code` by length: the lengths 7, 8 and 9, which occur, start at 0, 48 and 400 (R167). -/
theorem firstCodes_fixedLit : firstCodes (lengthCounts fixedLitLengths) 0 =
    [0, 0, 0, 0, 0, 0, 0, 48, 400, 1024, 2048, 4096, 8192, 16384, 32768, 65536] := by decide +kernel

theorem fixedLit_entries : (hufTable fixedLitLengths).entries =
    codeRun 144 8#4 48 ++ codeRun 112 9#4 400 ++ codeRun 24 7#4 0 ++ codeRun 8 8#4 192 := by
  have hlens : fixedLitLengths = List.replicate 144 8#4 ++ (List.replicate 112 9#4 ++
      (List.replicate 24 7#4 ++ (List.replicate 8 8#4 ++ []))) := by
    simp only [fixedLitLengths, List.append_assoc, List.append_nil]
  simp only [hufTable]
  rw [firstCodes_fixedLit, hlens, assignCodes_run (by decide) _ rfl, assignCodes_run (by decide) _ rfl,
    assignCodes_run (by decide) _ rfl, assignCodes_run (by decide) _ rfl]
  simp [assignCodes]

/-- `next_code` by length: the length 5, which alone occurs, starts at 0 (R167). -/
theorem firstCodes_fixedDist : firstCodes (lengthCounts fixedDistLengths) 0 =
    [0, 0, 0, 0, 0, 60, 120, 240, 480, 960, 1920, 3840, 7680, 15360, 30720, 61440] := by decide +kernel

theorem fixedDist_entries : (hufTable fixedDistLengths).entries = codeRun 30 5#4 0 := by
  have hlens : fixedDistLengths = List.replicate 30 5#4 ++ [] := (List.append_nil _).symm
  simp only [hufTable]
  rw [firstCodes_fixedDist, hlens, assignCodes_run (by decide) _ rfl]
  simp [assignCodes]

/-! ## Settled -/

/-- Settles O2: each range of the printed tables is one run; the two patterns are run on the table. -/
theorem fixedCodes : Obligations.FixedCodes := by
  refine ⟨fun sym h => ?_, fun d h => ?_, by rw [fixedDist_entries, codeRun_length], by decide +kernel,
    by decide +kernel⟩
  · split_ifs with h143 h255 h279
    · exact symbolBits_run (n := 144) (l := 8#4) (first := 0x30) (start := 0) (pre := []) (by simp [fixedLit_entries])
        rfl (by decide) (by omega) (by omega)
    · exact symbolBits_run (n := 112) (l := 9#4) (first := 0x190) (start := 144) (pre := codeRun 144 8#4 0x30)
        (by simp [fixedLit_entries]) (by simp) (by decide) (by omega) (by omega)
    · rw [← Nat.zero_add (sym - 256)]
      exact symbolBits_run (n := 24) (l := 7#4) (first := 0) (start := 256)
        (pre := codeRun 144 8#4 0x30 ++ codeRun 112 9#4 0x190)
        (by simp [fixedLit_entries]) (by simp) (by decide) (by omega) (by omega)
    · exact symbolBits_run (n := 8) (l := 8#4) (first := 0xC0) (start := 280)
        (pre := codeRun 144 8#4 0x30 ++ codeRun 112 9#4 0x190 ++ codeRun 24 7#4 0)
        (by simp [fixedLit_entries]) (by simp) (by decide) (by omega) (by omega)
  · simpa using symbolBits_run (T := hufTable fixedDistLengths) (n := 30) (l := 5#4) (first := 0) (start := 0)
      (pre := []) (by simp [fixedDist_entries]) rfl (by decide) (Nat.zero_le d) (by omega)

/-- Settles O1: each word is run through the decoder. -/
theorem writtenWordsDecode : Obligations.WrittenWordsDecode := by
  unfold Obligations.WrittenWordsDecode
  decide +kernel

end Sys2Proof
end

section
/-! PROOFS. What a step of a block with nothing in progress runs (R100, R371, R372). -/

namespace Sys2Proof.Machine

variable {s : State}

/-- A block that is BUSY, drained and left alone by the host does the next operation. -/
theorem step_eq_runNext (hb : s.runState = .busy) (ho : s.offer = []) (hh : s.host = []) : step s = runNext s := by
  simp only [step, cycle, blockStep, hh, hb, ho]

/-- A complete filtered scanline comes before the element of the phase. -/
theorem runNext_scanline (hd : s.scanlineDue = true) : runNext s = exec (fetchScanline s) s := by
  simp only [runNext, hd, if_true]

theorem runNext_element {f : Fmt} {i : Instr} {t : State} (hd : s.scanlineDue = false) (hf : s.phase.fmt = some f)
    (hr : fetch f s = .got i t) : runNext s = exec i t := by
  simp only [runNext, hd, hf, runElement, hr, Bool.false_eq_true, if_false]

theorem step_host {e : HostEvent} {rest : List HostEvent} (h : s.host = e :: rest) :
    step s = hostStep e { s with host := rest } := by
  simp only [step, cycle, h]

/-- Settles O12: a ready block reads its element, a complete scanline goes before it, the host before both. -/
theorem stepRunsTheElement : Obligations.StepRunsTheElement := by
  refine ⟨fun s t f i hr hf hd => ?_, fun s hb ho hh hd => ?_, fun s e rest h => step_host h⟩
  · rw [step_eq_runNext hr.busy hr.drained hr.noHost]
    exact runNext_element hr.noScanline hf hd
  · rw [step_eq_runNext hb ho hh]
    exact runNext_scanline hd

end Sys2Proof.Machine
end

section
/-! PROOFS. The Adler-32 of a byte sequence (R140 to R144): the rules of one update, then the closed form of R144 by
induction on the bytes, the last one split off. -/

namespace Sys2Proof.Machine

/-! ## The unit's operations (R141, R142) -/

@[simp] theorem adlerUpdate_s1 (b : Byte) (a : Adl) :
    (adlerUpdate b a).s1.toNat = (a.s1.toNat + b.toNat) % 65521 := by
  simp only [adlerUpdate, Config.adlerMod, BitVec.toNat_ofNat]
  omega

@[simp] theorem adlerUpdate_s2 (b : Byte) (a : Adl) :
    (adlerUpdate b a).s2.toNat = (a.s2.toNat + (a.s1.toNat + b.toNat)) % 65521 := by
  simp only [adlerUpdate, Config.adlerMod, BitVec.toNat_ofNat]
  omega

theorem adlerValue_toNat (a : Adl) : (adlerValue a).toNat = a.s2.toNat * 65536 + a.s1.toNat := by
  rw [adlerValue, BitVec.toNat_append, ← Nat.shiftLeft_add_eq_or_of_lt a.s1.isLt, Nat.shiftLeft_eq]

end Sys2Proof.Machine

namespace Sys2Proof

open Sys2Proof.Machine

/-! ## One more byte -/

@[simp] theorem adlerOf_append_singleton (bytes : List Byte) (b : Byte) :
    adlerOf (bytes ++ [b]) = adlerUpdate b (adlerOf bytes) := by
  simp [adlerOf]

/-- A byte more at the end raises the weight of every byte before it by one. -/
@[simp] theorem weightedSum_append_singleton (bytes : List Byte) (b : Byte) :
    weightedSum (bytes ++ [b]) = weightedSum bytes + (bytes.map BitVec.toNat).sum + b.toNat := by
  induction bytes with
  | nil => simp [weightedSum]
  | cons c cs ih =>
    simp only [List.cons_append, weightedSum, ih, List.length_append, List.length_singleton, List.map_cons,
      List.sum_cons]
    ring

/-! ## The closed form (R144) -/

theorem adlerOf_s1 (bytes : List Byte) :
    (adlerOf bytes).s1.toNat = (1 + (bytes.map BitVec.toNat).sum) % 65521 := by
  induction bytes using List.reverseRecOn with
  | nil => rfl
  | append_singleton bs b ih =>
    simp [ih, Nat.add_assoc]

/-- The update adds the new `s1`: one for the count, and the plain sum by which every earlier weight grows. -/
theorem adlerOf_s2 (bytes : List Byte) :
    (adlerOf bytes).s2.toNat = (bytes.length + weightedSum bytes) % 65521 := by
  induction bytes using List.reverseRecOn with
  | nil => rfl
  | append_singleton bs b ih =>
    simp only [adlerOf_append_singleton, adlerUpdate_s2, adlerOf_s1, ih, weightedSum_append_singleton,
      List.length_append, List.length_singleton]
    omega

/-- Settles O31: the closed form by induction on the bytes; the three vectors are run on the unit. -/
theorem adlerSums : Obligations.AdlerSums :=
  ⟨fun bytes => ⟨adlerOf_s1 bytes, adlerOf_s2 bytes, adlerValue_toNat (adlerOf bytes)⟩,
    by decide, by decide, by decide⟩

end Sys2Proof
end

section
/-! PROOFS. Stream bits as lists (R70, R72, R73): how fields and bytes are cut and joined, and what the list reader
reads where enough bits are there. -/

namespace Sys2Proof

variable {m n v w c : Nat} {l : List Bool}

/-! ## The bits of a field (R72) -/

@[simp] theorem bitsOfNat_length (n v : Nat) : (bitsOfNat n v).length = n := by
  induction n generalizing v with
  | zero => rfl
  | succ n ih => rw [bitsOfNat, List.length_cons, ih]

/-- A field of more bits is a field of fewer, then the bits of the rest of the value. -/
theorem bitsOfNat_add (m n v : Nat) : bitsOfNat (m + n) v = bitsOfNat m v ++ bitsOfNat n (v / 2 ^ m) := by
  induction m generalizing v with
  | zero => simp [bitsOfNat]
  | succ m ih => simp only [Nat.succ_add, bitsOfNat, ih, List.cons_append, Nat.div_div_eq_div_mul, pow_succ']

/-- Bits put above a value that fits below them come after its own. -/
theorem bitsOfNat_append (n : Nat) (hv : v < 2 ^ m) :
    bitsOfNat (m + n) (v + w * 2 ^ m) = bitsOfNat m v ++ bitsOfNat n w := by
  have hlow : (v + w * 2 ^ m) % 2 ^ m = v := by rw [Nat.add_mul_mod_self_right, Nat.mod_eq_of_lt hv]
  have hhigh : (v + w * 2 ^ m) / 2 ^ m = w := by
    rw [Nat.add_mul_div_right _ _ (Nat.two_pow_pos m), Nat.div_eq_of_lt hv, Nat.zero_add]
  rw [bitsOfNat_add, hhigh, ← bitsOfNat_mod m, hlow]

theorem bitsOfNat_take (h : n ≤ m) : (bitsOfNat m v).take n = bitsOfNat n v := by
  obtain ⟨k, rfl⟩ := Nat.exists_eq_add_of_le h
  rw [bitsOfNat_add, List.take_left' (bitsOfNat_length n v)]

theorem bitsOfNat_drop (h : n ≤ m) : (bitsOfNat m v).drop n = bitsOfNat (m - n) (v / 2 ^ n) := by
  obtain ⟨k, rfl⟩ := Nat.exists_eq_add_of_le h
  rw [bitsOfNat_add, List.drop_left' (bitsOfNat_length n v), Nat.add_sub_cancel_left]

@[simp] theorem natOfBits_bitsOfNat (n v : Nat) : natOfBits (bitsOfNat n v) = v % 2 ^ n := by
  induction n generalizing v with
  | zero => simp [bitsOfNat, natOfBits, Nat.mod_one]
  | succ n ih =>
    have hbit : (decide (v % 2 = 1)).toNat = v % 2 := by rcases Nat.mod_two_eq_zero_or_one v with h | h <;> simp [h]
    simp only [bitsOfNat, natOfBits, ih, hbit, pow_succ', Nat.mod_mul]

theorem natOfBits_append (a b : List Bool) : natOfBits (a ++ b) = natOfBits a + 2 ^ a.length * natOfBits b := by
  induction a with
  | nil => simp [natOfBits]
  | cons x a ih =>
    simp only [List.cons_append, natOfBits, ih, List.length_cons, pow_succ]
    ring

/-! ## The bits of bytes (R72) -/

@[simp] theorem bitsOfBytes_length (bs : List Byte) : (bitsOfBytes bs).length = 8 * bs.length := by
  induction bs with
  | nil => rfl
  | cons b bs ih => rw [bitsOfBytes, List.length_append, bitsOfNat_length, ih, List.length_cons]; ring

/-- Dropping the bits of whole bytes drops those bytes. -/
theorem bitsOfBytes_drop (n : Nat) (bs : List Byte) : (bitsOfBytes bs).drop (8 * n) = bitsOfBytes (bs.drop n) := by
  induction n generalizing bs with
  | zero => rfl
  | succ n ih => cases bs with
    | nil => rfl
    | cons b bs =>
      have hhead : ((bitsOfBytes (b :: bs)).drop 8) = bitsOfBytes bs := List.drop_left' (bitsOfNat_length 8 b.toNat)
      rw [Nat.mul_succ, Nat.add_comm, ← List.drop_drop, hhead, ih, List.drop_succ_cons]

/-! ## What the list reader reads -/

theorem bitReader_bits (h : n ≤ l.length) : bitReader.bits n l = .got (natOfBits (l.take n)) (l.drop n) := if_pos h

/-- The first byte of a byte sequence is read, and the other bytes are left. -/
theorem bitReader_byte (b : Byte) (bs : List Byte) :
    bitReader.byte (bitsOfBytes (b :: bs)) = .got b (bitsOfBytes bs) := by
  have hread := bitReader_bits (n := 8) (l := bitsOfBytes (b :: bs)) (by simp)
  have htake : (bitsOfBytes (b :: bs)).take 8 = bitsOfNat 8 b.toNat := List.take_left' (bitsOfNat_length 8 b.toNat)
  have hdrop : (bitsOfBytes (b :: bs)).drop 8 = bitsOfBytes bs := List.drop_left' (bitsOfNat_length 8 b.toNat)
  rw [htake, hdrop, natOfBits_bitsOfNat, Nat.mod_eq_of_lt b.isLt] at hread
  exact (congrArg (Rd.map (BitVec.ofNat 8)) hread).trans (by simp)

/-- The stream bits determine the bytes. -/
theorem bitsOfBytes_injective : Function.Injective bitsOfBytes := by
  intro as
  induction as with
  | nil => intro bs h; cases bs with
    | nil => rfl
    | cons b bs => simp [bitsOfBytes, bitsOfNat] at h
  | cons a as ih => intro bs h; cases bs with
    | nil => simp [bitsOfBytes, bitsOfNat] at h
    | cons b bs =>
      have hread := bitReader_byte a as
      rw [h, bitReader_byte b bs, Rd.got.injEq] at hread
      obtain ⟨hbyte, hrest⟩ := hread
      rw [hbyte, ih hrest.symm]

/-- Bits read one by one, the earlier one higher, are the bits of a data field in reverse (R73, R154). -/
theorem huffBits_bitReader (h : n ≤ l.length) :
    huffBits bitReader n c l = .got (c * 2 ^ n + natOfBits (l.take n).reverse) (l.drop n) := by
  induction n generalizing c l with
  | zero => simp [huffBits, natOfBits]
  | succ n ih => cases l with
    | nil => simp at h
    | cons b l =>
      have hlen : n ≤ l.length := by simpa using h
      have hfirst : bitReader.bits 1 (b :: l) = .got b.toNat l := bitReader_bits (by simp)
      rw [huffBits, hfirst, Rd.bind_of_got, ih hlen, List.take_succ_cons, List.reverse_cons, natOfBits_append,
        List.length_reverse, List.length_take_of_le hlen, List.drop_succ_cons]
      simp only [natOfBits, Rd.got.injEq, and_true]
      ring

end Sys2Proof
end

section
/-! PROOFS. The byte sources (R11, R61, R330): which byte sequence the current source presents, and that its reads give
that sequence in order, in mode 2 whatever chunk boundaries lie between. -/

namespace Sys2Proof.Machine

variable {s t : State} {b : Byte} {bytes after rest : List Byte} {n v w : Nat}

/-! ## Reads of the primary source (R11, R61) -/

theorem primaryGet_cons (h : s.fifo = b :: rest) : primaryGet s = .got b { s with fifo := rest, pos := s.pos + 1 } := by
  simp only [primaryGet, h]

theorem primaryGet_nil (h : s.fifo = []) : primaryGet s = if s.inEnd then .eof else .wait := by
  simp only [primaryGet, h]

theorem skip_append (hf : s.fifo = bytes ++ rest) :
    skip bytes.length s = .got () { s with fifo := rest, pos := s.pos + bytes.length } := by
  simp [skip, hf]

/-- The bytes of a big-endian field are read as its value, after the value `v` read so far (R70). -/
theorem readBE_bytesBE (hf : s.fifo = bytesBE n w ++ rest) :
    readBE primaryReader n v s = .got (v * 256 ^ n + w % 256 ^ n) { s with fifo := rest, pos := s.pos + n } := by
  induction n generalizing v s with
  | zero => simp [readBE, ← show s.fifo = rest from hf, Nat.mod_one]
  | succ n ih =>
    have hread : primaryReader.byte s = _ := primaryGet_cons hf
    have hsplit : (v * 256 + w / 256 ^ n % 256) * 256 ^ n + w % 256 ^ n = v * 256 ^ (n + 1) + w % 256 ^ (n + 1) := by
      rw [pow_succ, Nat.mod_mul]
      ring
    rw [readBE, hread, Rd.bind_of_got, ih rfl, BitVec.toNat_ofNat, hsplit]
    simp only [Nat.add_assoc, Nat.add_comm 1]

/-! ## The feeder (R330, R331) -/

/-- With payload left in the current chunk the feeder stays there. -/
theorem feederAdvance_inPayload (fuel : Nat) (h : s.chk.idatRem ≠ 0) : feederAdvance (fuel + 1) s = .got () s := by
  rw [feederAdvance, if_pos h]

/-- At the end of a chunk the feeder passes the CRC and the next IDAT header. -/
theorem feederAdvance_header (fuel : Nat) {crc : List Byte} {len : Nat} (h : s.chk.idatRem = 0) (hcrc : crc.length = 4)
    (hlen : len < 2 ^ 32) (hf : s.fifo = crc ++ bytesBE 4 len ++ bytesBE 4 typeIdat.toNat ++ rest) :
    feederAdvance (fuel + 1) s = feederAdvance fuel { s with
      fifo := rest, pos := s.pos + 12
      chk := { s.chk with clen := BitVec.ofNat 32 len, ctype := typeIdat, idatRem := len } } := by
  have hskip : skip 4 s = _ := hcrc ▸ skip_append (by rw [hf, List.append_assoc, List.append_assoc])
  have htype : typeIdat.toNat < 256 ^ 4 := typeIdat.isLt
  rw [feederAdvance, if_neg (not_not.2 h), hskip, Rd.bind_of_got, readBE_bytesBE rfl, Rd.bind_of_got,
    readBE_bytesBE rfl, Rd.bind_of_got, Nat.mod_eq_of_lt htype, Nat.mod_eq_of_lt (show len < 256 ^ 4 from hlen)]
  simp

/-- Before a payload byte the feeder comes to a chunk with payload left, past any number of empty chunks. -/
theorem feederAdvance_holds {fuel : Nat} (h : FeederHolds s (b :: bytes) after) (hfuel : s.fifo.length < fuel) :
    ∃ t, feederAdvance fuel s = .got () t ∧ t.chk.idatRem ≠ 0 ∧ FeederHolds t (b :: bytes) after := by
  induction fuel generalizing s with
  | zero => cases hfuel
  | succ fuel ih =>
    by_cases h0 : s.chk.idatRem = 0
    · obtain ⟨first, chunks, hrem, hfifo, hchunks, hpayload⟩ := h
      obtain rfl : first = [] := List.length_eq_zero_iff.1 (hrem.symm.trans h0)
      cases chunks with
      | nil => cases hpayload
      | cons chunk chunks =>
        obtain ⟨⟨hcrc, hlen⟩, hchunks⟩ := List.forall_mem_cons.1 hchunks
        have hfifo' : s.fifo = chunk.1 ++ bytesBE 4 chunk.2.length ++ bytesBE 4 typeIdat.toNat ++
            (chunk.2 ++ idatChunks chunks ++ after) := by
          simpa only [idatChunks, List.nil_append, List.append_assoc] using hfifo
        rw [feederAdvance_header fuel h0 hcrc hlen hfifo']
        refine ih ⟨chunk.2, chunks, rfl, rfl, hchunks, hpayload⟩ ?_
        rw [hfifo'] at hfuel
        simp only [List.length_append] at hfuel ⊢
        omega
    · exact ⟨s, feederAdvance_inPayload fuel h0, h0, h⟩

theorem feederGet_of_advance (ha : feederAdvance (s.fifo.length + 1) s = .got () t) (hf : t.fifo = b :: rest) :
    feederGet s = .got b { t with
      fifo := rest, pos := t.pos + 1, chk := { t.chk with idatRem := t.chk.idatRem - 1 } } := by
  simp only [feederGet, ha, Rd.bind_of_got, primaryGet_cons hf]

/-- The feeder reads the next payload byte (R330). -/
theorem feederGet_holds (h : FeederHolds s (b :: bytes) after) :
    ∃ t, feederGet s = .got b t ∧ FeederHolds t bytes after := by
  obtain ⟨t, hadvance, hrem, first, chunks, hlen, hfifo, hchunks, hpayload⟩ :=
    feederAdvance_holds h (Nat.lt_succ_self s.fifo.length)
  cases first with
  | nil => exact absurd hlen hrem
  | cons c first =>
    obtain ⟨rfl, rfl⟩ := List.cons_eq_cons.1 hpayload
    exact ⟨_, feederGet_of_advance hadvance hfifo, first, chunks, by simp [hlen], rfl, hchunks, rfl⟩

/-! ## The current source (R11) -/

/-- The byte sequence the current source presents: in mode 2 the IDAT payloads, before the input `after`; else all of
the input queue. -/
def SourceHolds (s : State) (bytes after : List Byte) : Prop :=
  if s.mode = .png then FeederHolds s bytes after else s.fifo = bytes

theorem sourceHolds_png (h : s.mode = .png) : SourceHolds s bytes after ↔ FeederHolds s bytes after := by
  rw [SourceHolds, if_pos h]

theorem sourceHolds_primary (h : s.mode ≠ .png) : SourceHolds s bytes after ↔ s.fifo = bytes := by
  rw [SourceHolds, if_neg h]

theorem sourceHolds_fifo (h : s.mode ≠ .png) : SourceHolds s s.fifo after := (sourceHolds_primary h).2 rfl

theorem currentGet_png (h : s.mode = .png) : currentGet s = feederGet s := by
  simp only [currentGet, h]

theorem currentGet_primary (h : s.mode ≠ .png) : currentGet s = primaryGet s := by
  cases hm : s.mode with
  | png => exact absurd hm h
  | rawDeflate | zlib => simp only [currentGet, hm]

theorem ConsumesSome.mode (h : ConsumesSome s t) : t.mode = s.mode := by
  obtain ⟨n, h⟩ := h
  rw [h.frame]

/-- The current source gives the first byte it presents and presents the others. -/
theorem currentGet_holds (h : SourceHolds s (b :: bytes) after) :
    ∃ t, currentGet s = .got b t ∧ SourceHolds t bytes after := by
  by_cases hm : s.mode = .png
  · obtain ⟨t, hget, ht⟩ := feederGet_holds ((sourceHolds_png hm).1 h)
    rw [← currentGet_png hm] at hget
    exact ⟨t, hget, (sourceHolds_png ((currentGet_consumes hget).mode.trans hm)).2 ht⟩
  · rw [currentGet_primary hm, primaryGet_cons ((sourceHolds_primary hm).1 h)]
    exact ⟨_, rfl, (sourceHolds_primary (by exact hm)).2 rfl⟩

end Sys2Proof.Machine
end

section
/-! PROOFS. The bit-stream reader (R24, R25, R151 to R157): on the bits that its accumulator and its source present, a
read of the machine is a read of the list. The settled statements are that fact, for one read, for many, and for the
decoder, which is a chain of reads. -/

namespace Sys2Proof.Machine

variable {s t : State} {b : Byte} {bytes after : List Byte} {l : List Bool} {n k c v : Nat}

/-! ## What a read consumes -/

theorem ConsumesSome.inEnd (h : ConsumesSome s t) : t.inEnd = s.inEnd := by
  obtain ⟨n, h⟩ := h
  rw [h.frame]

theorem ConsumesSome.frame (h : ConsumesSome s t) :
    t = { s with bsr := t.bsr, fifo := t.fifo, pos := t.pos, chk := t.chk } := by
  obtain ⟨n, h⟩ := h
  rw [h.frame]

theorem ConsumesSome.chk (h : ConsumesSome s t) (hm : s.mode ≠ .png) : t.chk = s.chk := by
  obtain ⟨n, h⟩ := h
  exact h.chk hm

/-- Outside mode 2 a read leaves the chunk registers too. -/
theorem ConsumesSome.frame_primary (h : ConsumesSome s t) (hm : s.mode ≠ .png) :
    t = { s with bsr := t.bsr, fifo := t.fifo, pos := t.pos } := by
  rw [← h.chk hm]
  exact h.frame

/-- `POS` counts what the input queue loses (R22). -/
theorem ConsumesSome.pos_add_fifo (h : ConsumesSome s t) : t.pos + t.fifo.length = s.pos + s.fifo.length := by
  obtain ⟨n, h⟩ := h
  have := h.enough
  rw [h.frame]
  simp only [List.length_drop]
  omega

theorem getHuffmanBits_consumes (h : getHuffmanBits n s = .got v t) : ConsumesSome s t :=
  huffBits_rel streamReader_respects h

/-! ## The unread bits (R24, R72) -/

@[simp] theorem accBits_length (s : State) : s.accBits.length = s.bsr.cnt := bitsOfNat_length _ _

theorem streamBits_length (s : State) : s.streamBits.length = s.bsr.cnt + 8 * s.fifo.length := by
  simp [State.streamBits]

/-- The reader has the bits `l` to read: those of the accumulator, which holds nothing above them, and then those of the
bytes that the current source presents before the input `after`. -/
def Unread (after : List Byte) (l : List Bool) (s : State) : Prop :=
  ∃ bytes, SourceHolds s bytes after ∧ s.bsr.acc.toNat < 2 ^ s.bsr.cnt ∧ l = s.accBits ++ bitsOfBytes bytes

/-- In modes 0 and 1 the unread bits are `State.streamBits`. -/
theorem unread_primary (hm : s.mode ≠ .png) :
    Unread after l s ↔ s.bsr.acc.toNat < 2 ^ s.bsr.cnt ∧ s.streamBits = l := by
  simp only [Unread, sourceHolds_primary hm, exists_eq_left', State.streamBits, @eq_comm _ l]

theorem unread_streamBits (hm : s.mode ≠ .png) (hacc : s.bsr.acc.toNat < 2 ^ s.bsr.cnt) : Unread [] s.streamBits s :=
  (unread_primary hm).2 ⟨hacc, rfl⟩

/-- Outside mode 2 what a state has consumed is determined by the bits it has left (R25). -/
theorem consumed_unique {u : State} (hm : s.mode ≠ .png) (ht : ConsumesSome s t) (hu : ConsumesSome s u)
    (hbt : AccumulatorBound t) (hbu : AccumulatorBound u) (h : t.streamBits = u.streamBits) : t = u := by
  obtain ⟨hcnt, hacc⟩ := hbt
  obtain ⟨hcnt', hacc'⟩ := hbu
  have hlen := congrArg List.length h
  rw [streamBits_length, streamBits_length] at hlen
  have hc : t.bsr.cnt = u.bsr.cnt := by omega
  obtain ⟨hbits, hbytes⟩ := List.append_inj h (by simpa using hc)
  have hval := congrArg natOfBits hbits
  simp only [State.accBits, natOfBits_bitsOfNat, Nat.mod_eq_of_lt hacc, Nat.mod_eq_of_lt hacc'] at hval
  have hbsr : t.bsr = u.bsr := by
    rw [show t.bsr = ⟨t.bsr.acc, t.bsr.cnt⟩ from rfl, BitVec.eq_of_toNat_eq hval, hc]
  have hfifo : t.fifo = u.fifo := bitsOfBytes_injective hbytes
  have hpos := ht.pos_add_fifo.trans hu.pos_add_fifo.symm
  rw [hfifo, Nat.add_right_cancel_iff] at hpos
  rw [ht.frame_primary hm, hu.frame_primary hm, hbsr, hfifo, hpos]

/-! ## A read where enough bits are there (R151, R152, R154) -/

/-- The refill moves a byte from the source to the accumulator; the unread bits stay. -/
theorem unread_takeByte (hs : SourceHolds s bytes after) (hcnt : s.bsr.cnt < 16)
    (hacc : s.bsr.acc.toNat < 2 ^ s.bsr.cnt) :
    Unread after (s.accBits ++ bitsOfBytes (b :: bytes)) { s with
      bsr := { acc := s.bsr.acc ||| (b.zeroExtend 32 <<< s.bsr.cnt), cnt := s.bsr.cnt + 8 } } := by
  have hval := refill_acc b hcnt hacc
  have hb : b.toNat + 1 ≤ 2 ^ 8 := b.isLt
  refine ⟨bytes, hs, ?_, ?_⟩
  · calc (s.bsr.acc ||| (b.zeroExtend 32 <<< s.bsr.cnt)).toNat
        = s.bsr.acc.toNat + b.toNat * 2 ^ s.bsr.cnt := hval
      _ < (b.toNat + 1) * 2 ^ s.bsr.cnt := by rw [Nat.add_mul, Nat.one_mul, Nat.add_comm]; omega
      _ ≤ 2 ^ 8 * 2 ^ s.bsr.cnt := Nat.mul_le_mul_right _ hb
      _ = 2 ^ (s.bsr.cnt + 8) := by rw [pow_add, Nat.mul_comm]
  · simp only [State.accBits, hval, bitsOfNat_append 8 hacc, bitsOfBytes, List.append_assoc]

/-- The refill loop fills the accumulator from the source; the unread bits stay. -/
theorem refill_unread {fuel : Nat} (h : Unread after l s) (hn : n ≤ 16) (hl : n ≤ l.length)
    (hfuel : n ≤ s.bsr.cnt + 8 * fuel) :
    ∃ t, refill n fuel s = .got () t ∧ Unread after l t ∧ n ≤ t.bsr.cnt := by
  induction fuel generalizing s with
  | zero => exact ⟨s, rfl, h, hfuel⟩
  | succ fuel ih =>
    unfold refill
    split
    next hlt =>
      obtain ⟨bytes, hs, hacc, rfl⟩ := h
      cases bytes with
      | nil => simp [bitsOfBytes] at hl; omega
      | cons b bytes =>
        obtain ⟨t, hget, ht⟩ := currentGet_holds hs
        have hbsr := currentGet_bsr hget
        rw [hget, Rd.bind_of_got]
        have hu := unread_takeByte (b := b) ht (by rw [hbsr]; omega) (by rwa [hbsr])
        rw [State.accBits, hbsr, ← State.accBits] at hu
        exact ih (by rwa [hbsr]) (by simp only [hbsr]; omega)
    next hge => exact ⟨s, rfl, h, by omega⟩

theorem getDataBits_unread (h : Unread after l s) (hn : n ≤ 16) (hl : n ≤ l.length) :
    ∃ t, getDataBits n s = .got (natOfBits (l.take n)) t ∧ Unread after (l.drop n) t := by
  obtain ⟨u, hrefill, ⟨bytes, hs, hacc, rfl⟩, hcnt⟩ := refill_unread h hn hl (show n ≤ s.bsr.cnt + 8 * n by omega)
  have hlen : n ≤ u.accBits.length := by simpa using hcnt
  refine ⟨{ u with bsr := { acc := u.bsr.acc >>> n, cnt := u.bsr.cnt - n } }, ?_, bytes, hs, ?_, ?_⟩
  · rw [getDataBits, hrefill, Rd.bind_of_got, List.take_append_of_le_length hlen, State.accBits, bitsOfNat_take hcnt,
      natOfBits_bitsOfNat]
  · rw [BitVec.toNat_ushiftRight, Nat.shiftRight_eq_div_pow, Nat.div_lt_iff_lt_mul (Nat.two_pow_pos n), ← pow_add,
      Nat.sub_add_cancel hcnt]
    exact hacc
  · rw [List.drop_append_of_le_length hlen, State.accBits, bitsOfNat_drop hcnt, State.accBits,
      BitVec.toNat_ushiftRight, Nat.shiftRight_eq_div_pow]

/-- The bit reads of the machine follow those of the list. -/
theorem streamReader_follows_bits (n : Nat) (l : List Bool) (s : State) (hn : n ≤ 16) (h : Unread after l s) :
    Rd.Follows (Unread after) (bitReader.bits n l) (streamReader.bits n s) := by
  intro v r hv
  by_cases hl : n ≤ l.length
  · rw [bitReader_bits hl] at hv
    cases hv
    exact getDataBits_unread h hn hl
  · cases (if_neg hl : bitReader.bits n l = .eof).symm.trans hv

theorem getHuffmanBits_unread (h : Unread after l s) (hl : n ≤ l.length) :
    ∃ t, getHuffmanBits n s = .got (natOfBits (l.take n).reverse) t ∧ Unread after (l.drop n) t :=
  huffBits_follows streamReader_follows_bits n 0 l s h _ _ (by rw [huffBits_bitReader hl, Nat.zero_mul, Nat.zero_add])

/-! ## A read past the last transferred byte (R61, R465) -/

theorem refill_short {fuel : Nat} (hm : s.mode ≠ .png) (hl : s.streamBits.length < n)
    (hfuel : n ≤ s.bsr.cnt + 8 * fuel) : refill n fuel s = if s.inEnd then .eof else .wait := by
  rw [streamBits_length] at hl
  induction fuel generalizing s with
  | zero => omega
  | succ fuel ih =>
    rw [refill, if_pos (by omega), currentGet_primary hm]
    cases hf : s.fifo with
    | nil => rw [primaryGet_nil hf]; split <;> rfl
    | cons b rest =>
      rw [hf, List.length_cons] at hl
      rw [primaryGet_cons hf, Rd.bind_of_got]
      exact ih hm (by dsimp only; omega) (by dsimp only; omega)

theorem getDataBits_short (hm : s.mode ≠ .png) (hl : s.streamBits.length < n) :
    getDataBits n s = if s.inEnd then .eof else .wait := by
  rw [getDataBits, refill_short hm hl (by omega)]
  split <;> rfl

theorem huffBits_short (hm : s.mode ≠ .png) (hacc : s.bsr.acc.toNat < 2 ^ s.bsr.cnt) (hl : s.streamBits.length < n) :
    huffBits streamReader n c s = if s.inEnd then .eof else .wait := by
  induction n generalizing s c with
  | zero => omega
  | succ n ih =>
    rw [huffBits]
    by_cases h1 : 1 ≤ s.streamBits.length
    · obtain ⟨t, hget, ht⟩ := getDataBits_unread (unread_streamBits hm hacc) (by omega) h1
      have hc := getDataBits_consumes (by omega) hget
      have hmt : t.mode ≠ .png := hc.mode ▸ hm
      obtain ⟨hacct, hbits⟩ := (unread_primary hmt).1 ht
      rw [show streamReader.bits 1 s = _ from hget, Rd.bind_of_got, ih hmt hacct (by simp [hbits]; omega), hc.inEnd]
    · rw [show streamReader.bits 1 s = _ from getDataBits_short hm (by omega)]
      split <;> rfl

/-! ## Many reads (R157) -/

/-- Data and Huffman reads one after another take as many bits as they ask for together. -/
theorem readMixed_unread {reads : List (Bool × Nat)} (h : Unread after l s) (hn : ∀ r ∈ reads, r.2 ≤ 16)
    (hl : (reads.map Prod.snd).sum ≤ l.length) :
    ∃ t, readMixed reads s = .got () t ∧ Unread after (l.drop (reads.map Prod.snd).sum) t ∧ ConsumesSome s t := by
  induction reads generalizing s l with
  | nil => exact ⟨s, rfl, h, 0, .refl s⟩
  | cons r reads ih =>
    obtain ⟨data, n⟩ := r
    obtain ⟨hn16, hn⟩ := List.forall_mem_cons.1 hn
    simp only [List.map_cons, List.sum_cons] at hl ⊢
    obtain ⟨v, u, hread, hu, hc⟩ : ∃ v u, (if data then getDataBits n s else getHuffmanBits n s) = .got v u ∧
        Unread after (l.drop n) u ∧ ConsumesSome s u := by
      cases data with
      | true =>
        obtain ⟨u, hget, hu⟩ := getDataBits_unread h hn16 (by omega)
        exact ⟨_, u, hget, hu, getDataBits_consumes hn16 hget⟩
      | false =>
        obtain ⟨u, hget, hu⟩ := getHuffmanBits_unread h (n := n) (by omega)
        exact ⟨_, u, hget, hu, getHuffmanBits_consumes hget⟩
    obtain ⟨t, hrest, ht, hct⟩ := ih hu hn (by rw [List.length_drop]; omega)
    rw [List.drop_drop] at ht
    exact ⟨t, by rw [readMixed, hread, Rd.bind_of_got, hrest], ht, streamReader_respects.trans hc hct⟩

/-- The bits left of a byte sequence split into the accumulator's, fewer than 8, and whole bytes in one way only. -/
theorem unread_drop (h : Unread after ((bitsOfBytes bytes).drop k) s) (hcnt : s.bsr.cnt ≤ 7)
    (hk : k ≤ 8 * bytes.length) :
    s.bsr.cnt = (8 - k % 8) % 8 ∧ SourceHolds s (bytes.drop ((k + 7) / 8)) after := by
  obtain ⟨left, hs, -, hbits⟩ := h
  have hlen := congrArg List.length hbits
  simp only [List.length_drop, bitsOfBytes_length, List.length_append, accBits_length] at hlen
  have hround : k + s.bsr.cnt = 8 * ((k + 7) / 8) := by omega
  have hleft : bitsOfBytes left = bitsOfBytes (bytes.drop ((k + 7) / 8)) := by
    rw [← bitsOfBytes_drop, ← hround, ← List.drop_drop, hbits, List.drop_left' (accBits_length s)]
  exact ⟨by omega, bitsOfBytes_injective hleft ▸ hs⟩

/-- A freshly initialised reader has the bits of the source to read. -/
theorem unread_fresh (hb : s.bsr = { acc := 0#32, cnt := 0 }) (h : SourceHolds s bytes after) :
    Unread after (bitsOfBytes bytes) s :=
  ⟨bytes, h, by simp [hb], by simp [State.accBits, hb, bitsOfNat]⟩

end Sys2Proof.Machine
end

section
/-! PROOFS. The statements about the bit-stream reader (R151 to R157), and the decoder on the machine's input as the
decoder on the list of unread bits (R11, R100, R330). -/

namespace Sys2Proof.Machine

variable {s : State} {bytes after : List Byte} {rest : List Bool} {f : Fmt} {i : Instr}

/-! ## The framing formats read bytes past the accumulator (R11, R114 to R120) -/

/-- The byte reads of `R` give, in order, the byte sequence that `Presents` says a state presents. -/
def ReadsPresented (R : Reader State) (Presents : List Byte → State → Prop) : Prop :=
  ∀ b bytes s, Presents (b :: bytes) s → ∃ t, R.byte s = .got b t ∧ Presents bytes t

variable {R : Reader State} {Presents : List Byte → State → Prop}

theorem byte_follows (hget : ReadsPresented R Presents) (l : List Bool) (s : State)
    (h : ∃ bytes, l = bitsOfBytes bytes ∧ Presents bytes s) :
    Rd.Follows (fun l s => ∃ bytes, l = bitsOfBytes bytes ∧ Presents bytes s) (bitReader.byte l) (R.byte s) := by
  intro v r hv
  obtain ⟨bytes, rfl, hs⟩ := h
  cases bytes with
  | nil => cases hv
  | cons b bytes =>
    obtain ⟨t, ht, hbytes⟩ := hget b bytes s hs
    rw [bitReader_byte] at hv
    cases hv
    exact ⟨t, ht, bytes, rfl, hbytes⟩

/-- A framing element is read from the bytes that are presented, and those after it are presented then. -/
theorem decode_presented (hget : ReadsPresented R Presents) (hf : f ∈ [Fmt.zh, .zd, .zt, .sig, .ch, .ih, .fs])
    (h : Presents bytes s) {c : Ctx} (hd : decode bitReader c f (bitsOfBytes bytes) = .got i rest) :
    ∃ t left, decode R c f s = .got i t ∧ rest = bitsOfBytes left ∧ Presents left t := by
  obtain ⟨t, ht, left, hrest, hleft⟩ := decode_follows_bytes (byte_follows hget) hf ⟨bytes, rfl, h⟩ _ _ hd
  exact ⟨t, left, ht, hrest, hleft⟩

/-- The primary source presents the input queue, `BSR` and `CHK` being those of `q`. -/
def QueuePresents (q : State) (bytes : List Byte) (s : State) : Prop :=
  s.fifo = bytes ∧ s.bsr = q.bsr ∧ s.chk = q.chk

theorem primaryReader_presented (q : State) : ReadsPresented primaryReader (QueuePresents q) :=
  fun _ _ _ h => ⟨_, primaryGet_cons h.1, rfl, h.2⟩

/-- The current source presents the bytes, `BSR` being that of `q`. -/
def SourcePresents (q : State) (after bytes : List Byte) (s : State) : Prop :=
  SourceHolds s bytes after ∧ s.bsr = q.bsr

theorem streamReader_presented (q : State) (after : List Byte) :
    ReadsPresented streamReader (SourcePresents q after) := by
  intro b bytes s h
  obtain ⟨t, hget, ht⟩ := currentGet_holds h.1
  exact ⟨t, hget, ht, (currentGet_bsr hget).trans h.2⟩

/-! ## Each group of formats, from its source -/

theorem readerOf_deflate (hf : f ∈ [Fmt.bh, .sh, .dh, .cll, .cls, .lls, .ds]) : readerOf f = streamReader := by
  fin_cases hf <;> rfl

theorem readerOf_zlib (hf : f ∈ [Fmt.zh, .zd, .zt]) : readerOf f = streamReader := by
  fin_cases hf <;> rfl

theorem readerOf_png (hf : f ∈ [Fmt.sig, .ch, .ih]) : readerOf f = primaryReader := by
  fin_cases hf <;> rfl

/-- A DEFLATE element is read from the unread bits. -/
theorem fetch_deflate {l : List Bool} (hf : f ∈ [Fmt.bh, .sh, .dh, .cll, .cls, .lls, .ds]) (h : Unread after l s)
    (hd : decode bitReader s.ctx f l = .got i rest) : ∃ t, fetch f s = .got i t ∧ Unread after rest t := by
  rw [fetch, readerOf_deflate hf]
  exact decode_follows_bits streamReader_follows_bits hf h _ _ hd

/-- An element of the zlib framer is read from the bytes of the current source. -/
theorem fetch_zlib (hf : f ∈ [Fmt.zh, .zd, .zt]) (h : SourceHolds s bytes after)
    (hd : decode bitReader s.ctx f (bitsOfBytes bytes) = .got i rest) :
    ∃ t left, fetch f s = .got i t ∧ rest = bitsOfBytes left ∧ SourceHolds t left after ∧ t.bsr = s.bsr := by
  rw [fetch, readerOf_zlib hf]
  exact decode_presented (streamReader_presented s after) (List.mem_append_left [.sig, .ch, .ih, .fs] hf) ⟨h, rfl⟩ hd

/-- An element of the chunk iterator or the IHDR parser is read from the bytes of the input queue. -/
theorem fetch_png (hf : f ∈ [Fmt.sig, .ch, .ih]) (hd : decode bitReader s.ctx f (bitsOfBytes s.fifo) = .got i rest) :
    ∃ t, fetch f s = .got i t ∧ rest = bitsOfBytes t.fifo ∧ t.bsr = s.bsr ∧ t.chk = s.chk := by
  rw [fetch, readerOf_png hf]
  obtain ⟨t, left, hread, hrest, rfl, hregs⟩ := decode_presented (primaryReader_presented s)
    (List.mem_append_right [.zh, .zd, .zt] (List.mem_append_left [.fs] hf)) ⟨rfl, rfl, rfl⟩ hd
  exact ⟨t, hread, hrest, hregs⟩

/-! ## Settled -/

/-- Settles O11: each group of formats follows the list decoder on what its source presents. -/
theorem fetchIsListDecode : Obligations.FetchIsListDecode := by
  intro s f i rest
  refine ⟨fun hm hb hf hd => ?_, fun hf hd => ?_, fun payload after hm hs hb hf hd => ?_,
    fun payload after hm hs hf hd => ?_⟩
  · obtain ⟨t, hfetch, ht⟩ := fetch_deflate hf (unread_streamBits hm hb.2) hd
    have hc := fetch_consumes hfetch
    exact ⟨t, hfetch, ((unread_primary (hc.mode ▸ hm)).1 ht).2, hb.consume hc, hc.frame_primary hm⟩
  · obtain ⟨t, hfetch, hrest, hbsr, hchk⟩ : ∃ t, fetch f s = .got i t ∧ rest = bitsOfBytes t.fifo ∧
        t.bsr = s.bsr ∧ t.chk = s.chk := by
      rcases hf with ⟨hm, hf⟩ | hf
      · obtain ⟨t, left, hfetch, hrest, ht, hbsr⟩ := fetch_zlib hf (sourceHolds_fifo (after := []) hm) hd
        have hc := fetch_consumes hfetch
        have hleft := (sourceHolds_primary (hc.mode ▸ hm)).1 ht
        exact ⟨t, hfetch, hleft ▸ hrest, hbsr, hc.chk hm⟩
      · exact fetch_png hf hd
    have hc := fetch_consumes hfetch
    have hframe := hc.frame
    rw [hbsr, hchk] at hframe
    exact ⟨t, hfetch, hrest.symm, hframe, hc.pos_add_fifo⟩
  · have hu : Unread after _ s := ⟨payload, (sourceHolds_png hm).2 hs, hb.2, rfl⟩
    obtain ⟨t, hfetch, left, ht, -, hrest⟩ := fetch_deflate hf hu hd
    have hc := fetch_consumes hfetch
    exact ⟨t, left, hfetch, (sourceHolds_png (hc.mode.trans hm)).1 ht, hrest.symm, hb.consume hc, hc.frame,
      hc.pos_add_fifo⟩
  · obtain ⟨t, left, hfetch, hrest, ht, hbsr⟩ := fetch_zlib hf ((sourceHolds_png hm).2 hs) hd
    have hc := fetch_consumes hfetch
    have hframe := hc.frame
    rw [hbsr] at hframe
    exact ⟨t, left, hfetch, (sourceHolds_png (hc.mode.trans hm)).1 ht, hrest.symm, hframe, hc.pos_add_fifo⟩

/-- Settles O8: both reads leave the same bits, which outside mode 2 determine the state left. -/
theorem readsTakeStreamBits : Obligations.ReadsTakeStreamBits := by
  intro s n hm hb hn
  refine ⟨fun hl => ?_, fun hl => ⟨getDataBits_short hm hl, huffBits_short hm hb.2 hl⟩⟩
  have hs := unread_streamBits hm hb.2
  obtain ⟨t, hdata, ht⟩ := getDataBits_unread hs hn hl
  obtain ⟨u, hhuff, hu⟩ := getHuffmanBits_unread hs hl
  have hct := getDataBits_consumes hn hdata
  have hcu := getHuffmanBits_consumes hhuff
  have hbits := ((unread_primary (hct.mode ▸ hm)).1 ht).2
  have hbits' := ((unread_primary (hcu.mode ▸ hm)).1 hu).2
  obtain rfl := consumed_unique hm hct hcu (hb.consume hct) (hb.consume hcu) (hbits.trans hbits'.symm)
  have hpos := hct.pos_add_fifo
  have hlen := congrArg List.length hbits
  rw [List.length_drop, streamBits_length, streamBits_length] at hlen
  rw [streamBits_length] at hl
  exact ⟨t, hdata, hhuff, hbits, hb.consume hct, hct.frame_primary hm, by omega⟩

theorem getHuffmanBits_one (s : State) : getHuffmanBits 1 s = getDataBits 1 s := by
  rw [getHuffmanBits, huffBits, show streamReader.bits 1 s = getDataBits 1 s from rfl]
  cases getDataBits 1 s with
  | got v t => simp [huffBits]
  | eof | corrupt | wait => rfl

/-- Reads of `k` bits in all from a fresh reader consume the bytes they lie in (R157). -/
theorem readMixed_fresh {reads : List (Bool × Nat)} {k : Nat} (hb : s.bsr = { acc := 0#32, cnt := 0 })
    (hn : ∀ r ∈ reads, r.2 ≤ if r.1 then 16 else 15) (hk : k = (reads.map Prod.snd).sum)
    (hs : SourceHolds s bytes after) (hl : k ≤ 8 * bytes.length) :
    ∃ t, readMixed reads s = .got () t ∧ SourceHolds t (bytes.drop ((k + 7) / 8)) after ∧
      t.bsr.cnt = (8 - k % 8) % 8 ∧ ConsumesSome s t := by
  subst hk
  have hn16 : ∀ r ∈ reads, r.2 ≤ 16 := fun r hr => (hn r hr).trans (by split <;> decide)
  have hbound : AccumulatorBound s := by simp [AccumulatorBound, hb]
  obtain ⟨t, hread, ht, hc⟩ := readMixed_unread (unread_fresh hb hs) hn16 (by simpa using hl)
  obtain ⟨hcnt, hleft⟩ := unread_drop ht (hbound.consume hc).1 hl
  exact ⟨t, hread, hleft, hcnt, hc⟩

/-- Settles O9: the count of bits left decides which bytes are consumed, whatever reads asked for them. -/
theorem mixedReadsConsumeBytes : Obligations.MixedReadsConsumeBytes := by
  refine ⟨getHuffmanBits_one, fun s reads k hb hn hk => ⟨fun hm hl => ?_, fun payload after hm hs hl => ?_⟩⟩
  · obtain ⟨t, hread, ht, hcnt, hc⟩ := readMixed_fresh hb hn hk (sourceHolds_fifo (after := []) hm) hl
    have hfifo := (sourceHolds_primary (hc.mode ▸ hm)).1 ht
    have hpos := hc.pos_add_fifo
    rw [hfifo, List.length_drop] at hpos
    exact ⟨t, hread, hfifo, by omega, hcnt⟩
  · obtain ⟨t, hread, ht, hcnt, hc⟩ := readMixed_fresh hb hn hk ((sourceHolds_png hm).2 hs) hl
    exact ⟨t, hread, (sourceHolds_png (hc.mode.trans hm)).1 ht, hcnt⟩

/-- Settles O10: an accumulator of no bits, which is the only one left as it is, holds 0. -/
theorem alignDiscardsTheResidue : Obligations.AlignDiscardsTheResidue := by
  intro s hb
  obtain ⟨hcnt, hacc⟩ := hb
  unfold alignToByte
  split
  next => rfl
  next h =>
    have hcnt0 : s.bsr.cnt = 0 := by omega
    have hacc0 : s.bsr.acc = 0#32 := BitVec.eq_of_toNat_eq (by simpa [hcnt0] using hacc)
    have hbsr : s.bsr = { acc := 0#32, cnt := 0 } := by rw [← hacc0, ← hcnt0]
    rw [← hbsr]

end Sys2Proof.Machine
end

section
/-! PROOFS. The Huffman table build (R165 to R168): the recurrence of `next_code` in closed form, the code each symbol
takes from it, and the least and greatest length. -/

namespace Sys2Proof

open Sys2Proof.Machine

variable {lens : List (BitVec 4)} {next : List Nat} {l : BitVec 4} {i L : Nat}

/-! ## The counts and `next_code` before any symbol is assigned (R166, R167) -/

@[simp] theorem lengthCounts_length : (lengthCounts lens).length = 15 := by simp [lengthCounts]

theorem lengthCounts_getD (h : L < 15) :
    (lengthCounts lens).getD L 0 = lens.countP fun l => decide (l.toNat = L + 1) := by
  simp [lengthCounts, h]

@[simp] theorem firstCodes_length (counts : List Nat) (c : Nat) : (firstCodes counts c).length = counts.length + 1 := by
  induction counts generalizing c with
  | nil => rfl
  | cons n counts ih => simp [firstCodes, ih]

theorem firstCodes_getD_zero (counts : List Nat) (c : Nat) : (firstCodes counts c).getD 0 0 = c := by
  cases counts <;> rfl

/-- The recurrence of R167 holds along the list. -/
theorem firstCodes_getD_succ {counts : List Nat} {c : Nat} (h : L < counts.length) :
    (firstCodes counts c).getD (L + 1) 0 = ((firstCodes counts c).getD L 0 + counts.getD L 0) * 2 := by
  induction counts generalizing c L with
  | nil => simp at h
  | cons n counts ih =>
    cases L with
    | zero => rw [firstCodes, List.getD_cons_succ, firstCodes_getD_zero, List.getD_cons_zero, List.getD_cons_zero]
    | succ L =>
      rw [firstCodes, List.getD_cons_succ, List.getD_cons_succ, List.getD_cons_succ, ih (by simpa using h)]

theorem firstCodes_lengthCounts (h : L ≤ 15) :
    (firstCodes (lengthCounts lens) 0).getD L 0 = firstCodeOf lens (L + 1) := by
  induction L with
  | zero => rw [firstCodes_getD_zero, firstCodeOf]
  | succ L ih => rw [firstCodes_getD_succ (by simpa using h), ih (by omega), lengthCounts_getD (by omega), firstCodeOf]

/-! ## The assignment of codes (R168) -/

theorem toNat_ne_zero_iff : l.toNat ≠ 0 ↔ l ≠ 0#4 := by
  simp [← BitVec.toNat_inj]

@[simp] theorem assignCodes_length : (assignCodes lens next).1.length = lens.length := by
  induction lens generalizing next with
  | nil => rfl
  | cons l lens ih =>
    unfold assignCodes
    split <;> simp [ih]

/-- The code that `next_code` has for a symbol of length `l` after `k` earlier symbols of that length (R168). -/
def assignedCode (next : List Nat) (l : BitVec 4) (k : Nat) : Option (BitVec 15) :=
  if l = 0#4 then none else some (BitVec.ofNat 15 ((next.getD (l.toNat - 1) 0 + k) % 2 ^ l.toNat))

/-- An earlier symbol of length `a` ≠ 0 raises `next_code` of that length and of no other. -/
theorem assignedCode_set {a : BitVec 4} (ha : a ≠ 0#4) (hn : 15 ≤ next.length) (k : Nat) :
    assignedCode (next.set (a.toNat - 1) (next.getD (a.toNat - 1) 0 + 1)) l k =
      assignedCode next l (k + if a = l then 1 else 0) := by
  have ha0 := toNat_ne_zero_iff.2 ha
  have halt := a.isLt
  unfold assignedCode
  by_cases hal : a = l
  · subst hal
    have hget : a.toNat - 1 < next.length := by omega
    simp [hget, Nat.add_assoc, Nat.add_comm 1]
  · by_cases hl : l = 0#4
    · simp [hl]
    · have hl0 := toNat_ne_zero_iff.2 hl
      have hne : a.toNat - 1 ≠ l.toNat - 1 := by
        intro h
        exact hal (BitVec.eq_of_toNat_eq (by omega))
      simp [hne, hal]

theorem assignedCode_zero (k : Nat) : assignedCode next 0#4 k = none := rfl

/-- A symbol's code is counted from `next_code` of its length by the earlier symbols of that length. -/
theorem assignCodes_getElem? (hn : 15 ≤ next.length) (hi : lens[i]? = some l) :
    (assignCodes lens next).1[i]? =
      some ⟨l, assignedCode next l ((lens.take i).countP fun m => decide (m = l))⟩ := by
  induction lens generalizing next i with
  | nil => simp at hi
  | cons a lens ih =>
    unfold assignCodes
    split
    next ha0 =>
      obtain rfl : a = 0#4 := BitVec.eq_of_toNat_eq ha0
      cases i with
      | zero =>
        obtain rfl : 0#4 = l := by simpa using hi
        simp [assignedCode]
      | succ i =>
        have hrest := ih hn (by simpa using hi)
        by_cases hl : l = 0#4
        · subst hl; simpa [assignedCode_zero] using hrest
        · simpa [Ne.symm hl, List.countP_cons] using hrest
    next ha0 =>
      have ha := toNat_ne_zero_iff.1 ha0
      cases i with
      | zero =>
        obtain rfl : a = l := by simpa using hi
        simp [assignedCode, ha]
      | succ i =>
        have hrest := ih (next := next.set (a.toNat - 1) (next.getD (a.toNat - 1) 0 + 1))
          (by simpa using hn) (by simpa using hi)
        rw [assignedCode_set ha hn] at hrest
        simpa [List.countP_cons] using hrest

/-- The table's entry of a symbol, by the formulas of R166 to R168. -/
theorem hufTable_getElem? (hi : lens[i]? = some l) : (hufTable lens).entries[i]? =
    some ⟨l, if l = 0#4 then none else some (BitVec.ofNat 15
      ((firstCodeOf lens l.toNat + (lens.take i).countP fun m => decide (m = l)) % 2 ^ l.toNat))⟩ := by
  have hentry := assignCodes_getElem? (next := firstCodes (lengthCounts lens) 0) (by simp) hi
  unfold assignedCode at hentry
  split
  next hl => rwa [if_pos hl] at hentry
  next hl =>
    have hl0 := toNat_ne_zero_iff.2 hl
    have hlt := l.isLt
    have hfirst := firstCodes_lengthCounts (lens := lens) (L := l.toNat - 1) (by omega)
    rw [Nat.sub_add_cancel (by omega)] at hfirst
    rwa [if_neg hl, hfirst] at hentry

@[simp] theorem hufTable_length : (hufTable lens).entries.length = lens.length := assignCodes_length

/-! ## The least and the greatest length (R166) -/

/-- What `find?` gives in an ordered list comes before every other element that satisfies the test. -/
theorem find?_least {α : Type} {r : α → α → Prop} {p : α → Bool} {xs : List α} (hxs : xs.Pairwise r) {a : α}
    (h : xs.find? p = some a) : a ∈ xs ∧ p a = true ∧ ∀ b ∈ xs, p b = true → b = a ∨ r a b := by
  obtain ⟨hp, before, after, rfl, hbefore⟩ := List.find?_eq_some_iff_append.1 h
  have hafter := (List.pairwise_cons.1 (List.pairwise_append.1 hxs).2.1).1
  refine ⟨by simp, hp, fun b hb hpb => ?_⟩
  simp only [List.mem_append, List.mem_cons] at hb
  obtain hb | rfl | hb := hb
  · exact absurd hpb (by simpa using hbefore b hb)
  · exact .inl rfl
  · exact .inr (hafter b hb)

/-- The length L + 1 is counted exactly when it occurs. -/
theorem lengthCounts_ne_zero (h : L < 15) :
    (lengthCounts lens).getD L 0 ≠ 0 ↔ ∃ l ∈ lens, l.toNat = L + 1 := by
  rw [lengthCounts_getD h, ← Nat.pos_iff_ne_zero, List.countP_pos_iff]
  simp

/-- The first length that occurs, in the order in which `is` lists the lengths 1 to 15 less one; 0 when none does. -/
def firstPresent (is : List Nat) (lens : List (BitVec 4)) : Nat :=
  (is.find? fun i => decide ((lengthCounts lens).getD i 0 ≠ 0)).elim 0 (· + 1)

theorem hufTable_min : (hufTable lens).min = firstPresent (List.range 15) lens := rfl

theorem hufTable_max : (hufTable lens).max = firstPresent (List.range 15).reverse lens := rfl

theorem firstPresent_empty {is : List Nat} (his : ∀ i ∈ is, i < 15) (h : ∀ l ∈ lens, l = 0#4) :
    firstPresent is lens = 0 := by
  have hnone : (is.find? fun i => decide ((lengthCounts lens).getD i 0 ≠ 0)) = none := by
    simp only [List.find?_eq_none, decide_eq_true_eq]
    intro i hi hcount
    obtain ⟨l, hl, hli⟩ := (lengthCounts_ne_zero (his i hi)).1 hcount
    simp [h l hl] at hli
  rw [firstPresent, hnone, Option.elim_none]

/-- When some length `l` is not 0, the first length is that of a symbol, and `l` does not come before it. -/
theorem firstPresent_spec {is : List Nat} {r : Nat → Nat → Prop} (his : ∀ i, i ∈ is ↔ i < 15) (hr : is.Pairwise r)
    (hl : l ∈ lens) (hl0 : l ≠ 0#4) : ∃ m ∈ lens, m ≠ 0#4 ∧ m.toNat = firstPresent is lens ∧
      (l.toNat = m.toNat ∨ r (m.toNat - 1) (l.toNat - 1)) := by
  have hpos := toNat_ne_zero_iff.2 hl0
  have hlt := l.isLt
  have hlen : l.toNat - 1 + 1 = l.toNat := by omega
  have hmem : l.toNat - 1 ∈ is := (his _).2 (by omega)
  have hcount := decide_eq_true ((lengthCounts_ne_zero (lens := lens) (by omega)).2 ⟨l, hl, hlen.symm⟩)
  obtain ⟨i, hi⟩ : ∃ i, (is.find? fun i => decide ((lengthCounts lens).getD i 0 ≠ 0)) = some i :=
    Option.isSome_iff_exists.1 (List.find?_isSome.2 ⟨_, hmem, hcount⟩)
  obtain ⟨hiis, hp, hbefore⟩ := find?_least hr hi
  obtain ⟨m, hm, hmi⟩ := (lengthCounts_ne_zero ((his i).1 hiis)).1 (of_decide_eq_true hp)
  refine ⟨m, hm, toNat_ne_zero_iff.1 (by omega), by rw [hmi, firstPresent, hi, Option.elim_some], ?_⟩
  rw [hmi, Nat.add_sub_cancel]
  exact (hbefore _ hmem hcount).imp_left (by omega)

theorem hufTable_empty (h : ∀ l ∈ lens, l = 0#4) : (hufTable lens).min = 0 ∧ (hufTable lens).max = 0 :=
  ⟨firstPresent_empty (fun _ => List.mem_range.1) h, firstPresent_empty (by simp) h⟩

theorem hufTable_min_le (hl : l ∈ lens) (hl0 : l ≠ 0#4) :
    (hufTable lens).min ≤ l.toNat ∧ ∃ m ∈ lens, m.toNat = (hufTable lens).min ∧ m ≠ 0#4 := by
  obtain ⟨m, hm, hm0, hmin, hle⟩ := firstPresent_spec (is := List.range 15) (by simp) List.pairwise_lt_range hl hl0
  rw [hufTable_min, ← hmin]
  exact ⟨by omega, m, hm, rfl, hm0⟩

theorem le_hufTable_max (hl : l ∈ lens) (hl0 : l ≠ 0#4) :
    l.toNat ≤ (hufTable lens).max ∧ ∃ m ∈ lens, m.toNat = (hufTable lens).max := by
  obtain ⟨m, hm, -, hmax, hle⟩ := firstPresent_spec (is := (List.range 15).reverse) (by simp)
    (List.pairwise_reverse.2 List.pairwise_lt_range) hl hl0
  rw [hufTable_max, ← hmax]
  exact ⟨by omega, m, hm, rfl⟩

/-! ## Settled -/

/-- Settles O6: the codes by induction on the symbols, the extremes by the order in which the lengths are searched. -/
theorem buildAssignsCodes : Obligations.BuildAssignsCodes := by
  refine fun lens => ⟨hufTable_length, fun i l => hufTable_getElem?, hufTable_empty, fun l hl hl0 => ?_⟩
  obtain ⟨hmin, hminMem⟩ := hufTable_min_le hl hl0
  obtain ⟨hmax, hmaxMem⟩ := le_hufTable_max hl hl0
  exact ⟨hmin, hmax, hminMem, hmaxMem⟩

end Sys2Proof
end

section
/-! PROOFS. The symbol decoder (R171 to R173): which symbol a search finds, the bits that finding it takes, and an empty
table. -/

namespace Sys2Proof

variable {T : HufTable} {L c i j : Nat}

/-! ## The search for a symbol (R172, R173) -/

/-- The symbol `i` has the length `L` and the code `c`. -/
def HufTable.HasCode (T : HufTable) (L c i : Nat) : Prop :=
  ∃ len code, T.entries[i]? = some ⟨len, some code⟩ ∧ len.toNat = L ∧ code.toNat = c

theorem HufTable.HasCode.unique {L' c' : Nat} (h : T.HasCode L c i) (h' : T.HasCode L' c' i) : L = L' ∧ c = c' := by
  obtain ⟨len, code, he, rfl, rfl⟩ := h
  obtain ⟨len', code', he', rfl, rfl⟩ := h'
  rw [he] at he'
  cases he'
  exact ⟨rfl, rfl⟩

/-- The test of the search. -/
theorem hasCode_iff_getElem (hi : i < T.entries.length) : T.HasCode L c i ↔
    (decide (T.entries[i].len.toNat = L) && decide (T.entries[i].code.map BitVec.toNat = some c)) = true := by
  unfold HufTable.HasCode
  rw [List.getElem?_eq_getElem hi]
  rcases T.entries[i] with ⟨len, _ | code⟩ <;> simp

theorem HufTable.HasCode.lt_length (h : T.HasCode L c i) : i < T.entries.length := by
  obtain ⟨len, code, he, -⟩ := h
  exact (List.getElem?_eq_some_iff.1 he).1

/-- The search gives the smallest symbol of this length and code; it gives none of length 0. -/
theorem lookup_eq_some_iff :
    T.lookup L c = some i ↔ L ≠ 0 ∧ T.HasCode L c i ∧ ∀ j, j < i → ¬ T.HasCode L c j := by
  unfold HufTable.lookup
  split
  next h0 => simp [h0]
  next h0 =>
    rw [List.findIdx?_eq_some_iff_getElem]
    constructor
    · rintro ⟨hi, hfound, hbefore⟩
      exact ⟨h0, (hasCode_iff_getElem hi).2 hfound, fun j hj hcode =>
        hbefore j hj ((hasCode_iff_getElem (hj.trans hi)).1 hcode)⟩
    · rintro ⟨-, hcode, hbefore⟩
      have hi := hcode.lt_length
      exact ⟨hi, (hasCode_iff_getElem hi).1 hcode, fun j hj hfound =>
        hbefore j hj ((hasCode_iff_getElem (hj.trans hi)).2 hfound)⟩

theorem symbolBits_eq_some_iff {w : List Bool} :
    T.symbolBits i = some w ↔ ∃ L c, T.HasCode L c i ∧ w = codeBits L c := by
  simp only [HufTable.symbolBits, HufTable.HasCode, Option.bind_eq_some_iff, Option.map_eq_some_iff]
  constructor
  · rintro ⟨⟨len, _⟩, he, code, rfl, rfl⟩
    exact ⟨_, _, ⟨len, code, he, rfl, rfl⟩, rfl⟩
  · rintro ⟨_, _, ⟨len, code, he, rfl, rfl⟩, rfl⟩
    exact ⟨⟨len, some code⟩, he, code, rfl, rfl⟩

/-! ## An empty table (R171) -/

/-- A table without lengths asks for no bit and finds no symbol (R171 (a)). -/
theorem decodeSymbol_empty {σ : Type} (R : Reader σ) (s : σ) (hmin : T.min = 0) (hmax : T.max = 0) :
    decodeSymbol R T s = .corrupt := by
  simp [decodeSymbol, hmin, hmax, huffBits, decodeLoop, HufTable.lookup]

/-! ## Settled -/

/-- Settles O7: the loop ends with a successful search, and the bits it has read are the code it searched for. -/
theorem decodeSymbolTakesTheCode : Obligations.DecodeSymbolTakesTheCode := by
  refine ⟨fun T bits rest i h => ?_, fun σ R lens s hempty => ?_⟩
  · obtain ⟨L, c, hlook, hbits⟩ := decodeSymbol_takes h
    obtain ⟨hL, ⟨len, code, he, rfl, rfl⟩, hfirst⟩ := lookup_eq_some_iff.1 hlook
    exact ⟨len, code, he, toNat_ne_zero_iff.1 hL, hbits, fun j hj hej => hfirst j hj ⟨len, code, hej, rfl, rfl⟩⟩
  · obtain ⟨hmin, hmax⟩ := hufTable_empty hempty
    exact decodeSymbol_empty R s hmin hmax

end Sys2Proof
end

section
/-! PROOFS. The canonical invariant (R170): the codes of lengths that are not over-subscribed lie in their range, differ,
and none begins another; so the symbol decoder, on a symbol's code, gives the symbol. -/

namespace Sys2Proof

open Sys2Proof.Machine

variable {lens : List (BitVec 4)} {T : HufTable} {L c c' d i j : Nat}

/-! ## The sum of R170 up to a length -/

/-- `count[L]` (R166). -/
def countOf (lens : List (BitVec 4)) (L : Nat) : Nat := lens.countP fun l => decide (l.toNat = L)

theorem firstCodeOf_succ (hL : L ≠ 0) : firstCodeOf lens (L + 1) = (firstCodeOf lens L + countOf lens L) * 2 := by
  obtain ⟨L, rfl⟩ := Nat.exists_eq_succ_of_ne_zero hL
  rfl

/-- The lengths up to `L`. -/
def lengthsUpTo (lens : List (BitVec 4)) (L : Nat) : List (BitVec 4) := lens.filter fun l => decide (l.toNat ≤ L)

theorem kraftSum_cons (l : BitVec 4) (lens : List (BitVec 4)) :
    kraftSum (l :: lens) = (if l = 0#4 then 0 else 2 ^ (15 - l.toNat)) + kraftSum lens := by
  simp [kraftSum]

theorem kraftSum_lengthsUpTo_le : kraftSum (lengthsUpTo lens L) ≤ kraftSum lens :=
  (List.Sublist.map _ List.filter_sublist).sum_le_sum fun _ _ => Nat.zero_le _

@[simp] theorem kraftSum_lengthsUpTo_zero : kraftSum (lengthsUpTo lens 0) = 0 := by
  simp only [kraftSum, lengthsUpTo, List.sum_eq_zero_iff, List.mem_map, List.mem_filter]
  rintro _ ⟨l, ⟨-, hl⟩, rfl⟩
  exact if_pos (BitVec.eq_of_toNat_eq (by simpa using hl))

/-- The lengths `L + 1` add their count times 2^(15 − (L + 1)). -/
theorem kraftSum_lengthsUpTo_succ : kraftSum (lengthsUpTo lens (L + 1)) =
    kraftSum (lengthsUpTo lens L) + countOf lens (L + 1) * 2 ^ (15 - (L + 1)) := by
  induction lens with
  | nil => simp [lengthsUpTo, countOf, kraftSum]
  | cons l lens ih =>
    simp only [lengthsUpTo, countOf, List.filter_cons, List.countP_cons] at ih ⊢
    obtain hlt | heq | hgt := lt_trichotomy l.toNat (L + 1)
    · have hle : l.toNat ≤ L := by omega
      simp [hle, hlt.le, hlt.ne, kraftSum_cons, ih, Nat.add_assoc]
    · have hl : l ≠ 0#4 := toNat_ne_zero_iff.1 (by omega)
      simp [heq, hl, kraftSum_cons, ih]
      ring
    · have hle : ¬ l.toNat ≤ L := by omega
      simp [hle, hgt.not_ge, hgt.ne', ih]

/-- `next_code` before the assignment is the share of the code space that shorter codes take (R167, R170). -/
theorem firstCodeOf_eq_kraftSum (hL : L ≤ 15) :
    firstCodeOf lens (L + 1) * 2 ^ (15 - L) = 2 * kraftSum (lengthsUpTo lens L) := by
  induction L with
  | zero => simp [firstCodeOf]
  | succ L ih =>
    have hpow : 2 ^ (15 - L) = 2 ^ (15 - (L + 1)) * 2 := by rw [← pow_succ]; congr 1; omega
    have hprev := ih (by omega)
    rw [hpow] at hprev
    rw [firstCodeOf_succ L.succ_ne_zero, kraftSum_lengthsUpTo_succ, mul_add, ← hprev]
    ring

/-! ## Codes that are not over-subscribed -/

/-- No code of a length passes 2^L: the mask of R168 removes nothing. -/
theorem firstCodeOf_add_countOf_le (hK : kraftSum lens ≤ 2 ^ 15) (hL0 : L ≠ 0) (hL : L ≤ 15) :
    firstCodeOf lens L + countOf lens L ≤ 2 ^ L := by
  have hshare := firstCodeOf_eq_kraftSum (lens := lens) hL
  have hsum : kraftSum (lengthsUpTo lens L) ≤ 2 ^ L * 2 ^ (15 - L) := by
    rw [← pow_add, Nat.add_sub_cancel' hL]
    exact kraftSum_lengthsUpTo_le.trans hK
  rw [firstCodeOf_succ hL0] at hshare
  refine Nat.le_of_mul_le_mul_right ?_ (Nat.two_pow_pos (15 - L))
  linarith

/-- The number of symbols before `i` that have the length `L` (R168). -/
def rankOf (lens : List (BitVec 4)) (L i : Nat) : Nat := countOf (lens.take i) L

/-- Later symbols have greater ranks than a symbol of the length counted. -/
theorem rankOf_lt {l : BitVec 4} (hi : lens[i]? = some l) (hij : i < j) :
    rankOf lens l.toNat i < rankOf lens l.toNat j := by
  have htake : lens.take (i + 1) = lens.take i ++ [l] := by rw [List.take_add_one, hi, Option.toList_some]
  have hsub : (lens.take (i + 1)).Sublist (lens.take j) := List.take_sublist_take_left hij
  have hle := hsub.countP_le (p := fun m => decide (m.toNat = l.toNat))
  rw [htake, List.countP_append] at hle
  simpa [rankOf, countOf] using hle

theorem rankOf_lt_countOf {l : BitVec 4} (hi : lens[i]? = some l) : rankOf lens l.toNat i < countOf lens l.toNat := by
  have hlt := (List.getElem?_eq_some_iff.1 hi).1
  simpa [rankOf] using rankOf_lt hi hlt

/-- A symbol's code is exactly the first code of its length plus its rank (R170). -/
theorem hasCode_hufTable (hK : kraftSum lens ≤ 2 ^ 15) (h : (hufTable lens).HasCode L c i) :
    ∃ l, lens[i]? = some l ∧ l ≠ 0#4 ∧ l.toNat = L ∧ c = firstCodeOf lens L + rankOf lens L i := by
  obtain ⟨len, code, he, rfl, rfl⟩ := h
  have hi : i < lens.length := by simpa using (List.getElem?_eq_some_iff.1 he).1
  have hl := List.getElem?_eq_getElem hi
  rw [hufTable_getElem? hl, Option.some.injEq, HufEntry.mk.injEq] at he
  obtain ⟨hlen, hcode⟩ := he
  rw [hlen] at hl hcode
  split at hcode
  next => cases hcode
  next hl0 =>
    cases hcode
    refine ⟨len, hl, hl0, rfl, ?_⟩
    have hrank : ((lens.take i).countP fun m => decide (m = len)) = rankOf lens len.toNat i := by
      simp only [rankOf, countOf, BitVec.toNat_inj]
    have hfit := firstCodeOf_add_countOf_le hK (toNat_ne_zero_iff.2 hl0) (Nat.le_of_lt_succ len.isLt)
    have hlt := rankOf_lt_countOf hl
    have h15 : 2 ^ len.toNat ≤ 2 ^ 15 := Nat.pow_le_pow_right (by omega) (Nat.le_of_lt_succ len.isLt)
    rw [hrank, BitVec.toNat_ofNat, Nat.mod_eq_of_lt (by omega : _ < 2 ^ len.toNat), Nat.mod_eq_of_lt (by omega)]

/-- Between a length and a longer one the first code grows past every extension of the shorter codes. -/
theorem firstCodeOf_add_mul_le (hL : L ≠ 0) (d : Nat) :
    (firstCodeOf lens L + countOf lens L) * 2 ^ (d + 1) ≤ firstCodeOf lens (L + (d + 1)) := by
  induction d with
  | zero => rw [firstCodeOf_succ hL]; omega
  | succ d ih =>
    rw [← Nat.add_assoc, firstCodeOf_succ (by omega), pow_succ, ← mul_assoc]
    exact Nat.mul_le_mul_right 2 (ih.trans (Nat.le_add_right ..))

/-- No code begins another: a code that `d` more bits extend to a code is that code (R170). -/
def HufTable.PrefixFree (T : HufTable) : Prop :=
  ∀ {L c d c' i j : Nat}, T.HasCode L c i → T.HasCode (L + d) c' j → c' / 2 ^ d = c → i = j

theorem hufTable_prefixFree (hK : kraftSum lens ≤ 2 ^ 15) : (hufTable lens).PrefixFree := by
  intro L c d c' i j h h' hpre
  obtain ⟨l, hi, hl0, rfl, rfl⟩ := hasCode_hufTable hK h
  obtain ⟨m, hj, -, hm, rfl⟩ := hasCode_hufTable hK h'
  cases d with
  | zero =>
    obtain rfl : m = l := BitVec.eq_of_toNat_eq hm
    have hrank : rankOf lens m.toNat j = rankOf lens m.toNat i := by simpa using hpre
    obtain hlt | rfl | hgt := lt_trichotomy i j
    · exact absurd hrank (rankOf_lt hi hlt).ne'
    · rfl
    · exact absurd hrank (rankOf_lt hj hgt).ne
  | succ d =>
    have hgrow := firstCodeOf_add_mul_le (lens := lens) (toNat_ne_zero_iff.2 hl0) d
    have hpast : firstCodeOf lens l.toNat + countOf lens l.toNat ≤
        (firstCodeOf lens (l.toNat + (d + 1)) + rankOf lens (l.toNat + (d + 1)) j) / 2 ^ (d + 1) :=
      (Nat.le_div_iff_mul_le (Nat.two_pow_pos _)).2 (hgrow.trans (Nat.le_add_right ..))
    have hlt := rankOf_lt_countOf hi
    omega

/-! ## Decoding a code -/

/-- What the decoder needs of a table to find every symbol by its code. -/
structure HufTable.Decodable (T : HufTable) : Prop where
  prefixFree : T.PrefixFree
  code_lt : ∀ {L c i}, T.HasCode L c i → c < 2 ^ L
  pos : ∀ {L c i}, T.HasCode L c i → L ≠ 0
  min_le : ∀ {L c i}, T.HasCode L c i → T.min ≤ L
  le_max : ∀ {L c i}, T.HasCode L c i → L ≤ T.max

theorem decodable_of_canonical (h : Canonical T) : T.Decodable := by
  obtain ⟨lens, rfl, hK⟩ := h
  refine ⟨hufTable_prefixFree hK, fun h => ?_, fun h => ?_, fun h => ?_, fun h => ?_⟩ <;>
    obtain ⟨l, hi, hl0, rfl, rfl⟩ := hasCode_hufTable hK h
  · have hfit := firstCodeOf_add_countOf_le hK (toNat_ne_zero_iff.2 hl0) (Nat.le_of_lt_succ l.isLt)
    have hlt := rankOf_lt_countOf hi
    omega
  · exact toNat_ne_zero_iff.2 hl0
  · exact (hufTable_min_le (List.mem_of_getElem? hi) hl0).1
  · exact (le_hufTable_max (List.mem_of_getElem? hi) hl0).1

/-- A code's search finds its symbol. -/
theorem HufTable.Decodable.lookup_code (hT : T.Decodable) (h : T.HasCode L c i) : T.lookup L c = some i := by
  refine lookup_eq_some_iff.2 ⟨hT.pos h, h, fun j hj hcode => hj.ne ?_⟩
  exact hT.prefixFree (d := 0) hcode h (by simp)

/-- The beginning of a code, without its last bits, is no symbol's code. -/
theorem HufTable.Decodable.lookup_beginning (hT : T.Decodable) (h : T.HasCode (L + (d + 1)) c i) :
    T.lookup L (c / 2 ^ (d + 1)) = none := by
  refine Option.eq_none_iff_forall_ne_some.2 fun j hj => ?_
  obtain ⟨-, hcode, -⟩ := lookup_eq_some_iff.1 hj
  obtain rfl := hT.prefixFree hcode h rfl
  have := (hcode.unique h).1
  omega

/-- The last `d` bits of a code come after those of its higher part. -/
theorem codeBits_add (d n c : Nat) : codeBits (d + n) c = codeBits n (c / 2 ^ d) ++ codeBits d c := by
  rw [codeBits, bitsOfNat_add, List.reverse_append, codeBits, codeBits]

@[simp] theorem codeBits_length (n c : Nat) : (codeBits n c).length = n := by simp [codeBits]

theorem bitReader_bitsOfNat (n v : Nat) (r : List Bool) :
    bitReader.bits n (bitsOfNat n v ++ r) = .got (v % 2 ^ n) r := by
  rw [bitReader_bits (by simp), List.take_left' (bitsOfNat_length n v), List.drop_left' (bitsOfNat_length n v),
    natOfBits_bitsOfNat]

section Loop
variable {σ : Type} {R : Reader σ} {fuel : Nat} {s : σ}

theorem decodeLoop_found (h : T.lookup L c = some i) : decodeLoop R T fuel L c s = .got i s := by
  unfold decodeLoop
  rw [h]

theorem decodeLoop_notFound (h : T.lookup L c = none) : decodeLoop R T (fuel + 1) L c s =
    (R.bits 1 s).bind fun b s => decodeLoop R T fuel (L + 1) (2 * c + b) s := by
  rw [decodeLoop, h]

end Loop

/-- From a code's first bits on, the loop reads the other `d` bits and finds the symbol. -/
theorem decodeLoop_code (hT : T.Decodable) {fuel : Nat} {r : List Bool} (h : T.HasCode (L + d) c i) (hd : d ≤ fuel) :
    decodeLoop bitReader T fuel L (c / 2 ^ d) (codeBits d c ++ r) = .got i r := by
  induction d generalizing L fuel with
  | zero => rw [pow_zero, Nat.div_one]; exact decodeLoop_found (hT.lookup_code h)
  | succ d ih =>
    cases fuel with
    | zero => omega
    | succ fuel =>
      have hread : bitReader.bits 1 (codeBits (d + 1) c ++ r) = .got (c / 2 ^ d % 2) (codeBits d c ++ r) := by
        rw [codeBits_add, List.append_assoc]
        exact bitReader_bitsOfNat 1 _ _
      have hnext : 2 * (c / 2 ^ (d + 1)) + c / 2 ^ d % 2 = c / 2 ^ d := by
        rw [pow_succ, ← Nat.div_div_eq_div_mul]
        omega
      rw [decodeLoop_notFound (hT.lookup_beginning h), hread, Rd.bind_of_got, hnext]
      exact ih (by rwa [Nat.add_right_comm, Nat.add_assoc]) (by omega)

/-- On a symbol's code the decoder gives the symbol and leaves the bits that follow. -/
theorem decodeSymbol_symbolBits (hT : T.Decodable) {w : List Bool} (h : T.symbolBits i = some w) (r : List Bool) :
    decodeSymbol bitReader T (w ++ r) = .got i r := by
  obtain ⟨L, c, hcode, rfl⟩ := symbolBits_eq_some_iff.1 h
  obtain ⟨d, rfl⟩ := Nat.exists_eq_add_of_le (hT.min_le hcode)
  have hmax := hT.le_max hcode
  have hhigh : c / 2 ^ d < 2 ^ T.min := by
    rw [Nat.div_lt_iff_lt_mul (Nat.two_pow_pos d), ← pow_add]
    exact hT.code_lt hcode
  have hfirst : huffBits bitReader T.min 0 (codeBits T.min (c / 2 ^ d) ++ (codeBits d c ++ r)) =
      .got (c / 2 ^ d) (codeBits d c ++ r) := by
    rw [huffBits_bitReader (by simp), List.take_left' (codeBits_length ..), List.drop_left' (codeBits_length ..),
      codeBits, List.reverse_reverse, natOfBits_bitsOfNat, Nat.mod_eq_of_lt hhigh, Nat.zero_mul, Nat.zero_add]
  rw [Nat.add_comm T.min, codeBits_add, List.append_assoc, decodeSymbol, hfirst, Rd.bind_of_got]
  exact decodeLoop_code hT hcode (by omega)

end Sys2Proof
end

section
/-! PROOFS. Decoding inverts encoding (R100, R170): on the word of an element the decoder reads each field as it was
written, and the fields pick the element's row. -/

namespace Sys2Proof

open Sys2Proof.Machine

variable {c : Ctx} {T : HufTable} {i : Instr} {w r : List Bool} {sym n e k : Nat}

/-! ## A field is read as it was written -/

theorem bitReader_field {n : Nat} (x : BitVec n) (r : List Bool) :
    bitReader.bits n (bitsOfNat n x.toNat ++ r) = .got x.toNat r := by
  rw [bitReader_bitsOfNat, Nat.mod_eq_of_lt x.isLt]

theorem bitReader_byteField (b : Byte) (r : List Bool) : bitReader.byte (bitsOfNat 8 b.toNat ++ r) = .got b r := by
  have hread : bitReader.byte (bitsOfNat 8 b.toNat ++ r) =
      (bitReader.bits 8 (bitsOfNat 8 b.toNat ++ r)).map (BitVec.ofNat 8) := rfl
  rw [hread, bitReader_field, Rd.map_of_got, BitVec.ofNat_toNat, BitVec.setWidth_eq]

/-- A big-endian field is read as its value, after the value `v` read so far (R70). -/
theorem readBE_bitsOfBytes (n v x : Nat) (r : List Bool) :
    readBE bitReader n v (bitsOfBytes (bytesBE n x) ++ r) = .got (v * 256 ^ n + x % 256 ^ n) r := by
  induction n generalizing v with
  | zero => simp [readBE, bytesBE, bitsOfBytes, Nat.mod_one]
  | succ n ih =>
    have hvalue : (v * 256 + x / 256 ^ n % 256) * 256 ^ n + x % 256 ^ n = v * 256 ^ (n + 1) + x % 256 ^ (n + 1) := by
      rw [pow_succ, Nat.mod_mul]
      ring
    rw [bytesBE, bitsOfBytes, List.append_assoc, readBE, bitReader_byteField, Rd.bind_of_got, ih, BitVec.toNat_ofNat]
    exact congrArg (Rd.got · r) hvalue

theorem readBE_word (x : Word) (r : List Bool) :
    readBE bitReader 4 0 (bitsOfBytes (bytesBE 4 x.toNat) ++ r) = .got x.toNat r := by
  rw [readBE_bitsOfBytes, Nat.mod_eq_of_lt (show x.toNat < 256 ^ 4 from x.isLt), Nat.zero_mul, Nat.zero_add]

theorem readBE_signature (x : BitVec 64) (r : List Bool) :
    readBE bitReader 8 0 (bitsOfBytes (bytesBE 8 x.toNat) ++ r) = .got x.toNat r := by
  rw [readBE_bitsOfBytes, Nat.mod_eq_of_lt (show x.toNat < 256 ^ 8 from x.isLt), Nat.zero_mul, Nat.zero_add]

theorem readCll_lengths (ls : List (BitVec 3)) (r : List Bool) :
    readCll bitReader ls.length ((ls.flatMap fun x => bitsOfNat 3 x.toNat) ++ r) = .got ls r := by
  induction ls with
  | nil => rfl
  | cons x ls ih =>
    rw [List.flatMap_cons, List.append_assoc, List.length_cons, readCll, bitReader_field, Rd.bind_of_got, ih]
    simp

/-- A symbol's word is read as the symbol, and then its extra bits. -/
theorem decodeSymbol_symbolWord (hT : T.Decodable) (h : symbolWord T sym n e = some w) (r : List Bool) :
    decodeSymbol bitReader T (w ++ r) = .got sym (bitsOfNat n e ++ r) := by
  obtain ⟨code, hcode, rfl⟩ := Option.map_eq_some_iff.1 h
  rw [List.append_assoc, decodeSymbol_symbolBits hT hcode]

theorem decodeSymbol_noExtra (hT : T.Decodable) (h : symbolWord T sym 0 e = some w) (r : List Bool) :
    decodeSymbol bitReader T (w ++ r) = .got sym r := decodeSymbol_symbolWord hT h r

/-! ## The row that its operands pick -/

/-- A length element is the row of its symbol and its extra bits (R111). -/
theorem lengthInstr_of_operand (h : lengthOperand i = some (sym, e)) :
    257 ≤ sym ∧ sym ≤ 285 ∧ e < 2 ^ lengthExtra.getD (sym - 257) 0 ∧ lengthInstr (sym - 257) e = i := by
  cases i <;> simp only [lengthOperand, reduceCtorEq, Option.some.injEq, Prod.mk.injEq] at h <;>
    obtain ⟨rfl, rfl⟩ := h <;> simp [lengthInstr, lengthExtra] <;> omega

/-- A distance element is the row of its symbol and its extra bits (R112). -/
theorem distInstr_of_operand (h : distOperand i = some (sym, e)) :
    sym ≤ 29 ∧ e < 2 ^ distExtra.getD sym 0 ∧ distInstr sym e = i := by
  cases i <;> simp only [distOperand, reduceCtorEq, Option.some.injEq, Prod.mk.injEq] at h <;>
    obtain ⟨rfl, rfl⟩ := h <;> simp [distInstr, distExtra] <;> omega

/-- The literal/length elements that are no length. -/
theorem lls_of_no_operand (hf : i.fmt = .lls) (h : lengthOperand i = none) :
    (∃ b, i = .lit b) ∨ i = .eob ∨ ∃ odd, i = .llInv odd := by
  cases i
  case lit b => exact .inl ⟨b, rfl⟩
  case eob => exact .inr (.inl rfl)
  case llInv odd => exact .inr (.inr ⟨odd, rfl⟩)
  all_goals simp [Instr.fmt, lengthOperand] at hf h

/-- The distance elements that are no distance. -/
theorem ds_of_no_operand (hf : i.fmt = .ds) (h : distOperand i = none) : ∃ odd, i = .distInv odd := by
  cases i
  case distInv odd => exact ⟨odd, rfl⟩
  all_goals simp [Instr.fmt, distOperand] at hf h

/-- An unknown chunk type is none of the three known ones (R119, R335). -/
theorem chunkInstr_of_unknown {len ctype : Word} (h : unknownType ctype = true) :
    chunkInstr len ctype = if ctype.getLsbD 29 then .chunkAnc len ctype else .chunkCrit len ctype := by
  simp only [unknownType, Bool.and_eq_true, bne_iff_ne] at h
  obtain ⟨⟨hihdr, hidat⟩, hiend⟩ : (ctype ≠ typeIhdr ∧ ctype ≠ typeIdat) ∧ ctype ≠ typeIend := h
  rw [chunkInstr, if_neg hihdr, if_neg hidat, if_neg hiend]

/-- A filter type byte from 5 on is none of the five filters (R380). -/
theorem filterInstr_of_invalid {t : Byte} (h : 5 ≤ t.toNat) : filterInstr t = .fltInv t := by
  have hne : ∀ k : Byte, k.toNat < 5 → t ≠ k := by
    rintro k hk rfl
    omega
  rw [filterInstr, if_neg (hne _ (by decide)), if_neg (hne _ (by decide)), if_neg (hne _ (by decide)),
    if_neg (hne _ (by decide)), if_neg (hne _ (by decide))]

/-! ## The formats of symbols (R105 to R107) -/

theorem decodeLls_encode (hT : c.ll.Decodable) (hf : i.fmt = .lls) (hw : encode c i = some w) :
    decodeLls bitReader c (w ++ r) = .got i r := by
  cases hop : lengthOperand i with
  | some p =>
    obtain ⟨sym, e⟩ := p
    obtain ⟨hlo, hhi, he, rfl⟩ := lengthInstr_of_operand hop
    rw [encode_lengthInstr c (by omega), Nat.add_sub_cancel' hlo] at hw
    rw [decodeLls, decodeSymbol_symbolWord hT hw, Rd.bind_of_got, if_neg (by omega), if_neg (by omega), if_pos hhi,
      bitReader_bitsOfNat, Nat.mod_eq_of_lt he, Rd.map_of_got]
  | none =>
    obtain ⟨b, rfl⟩ | rfl | ⟨odd, rfl⟩ := lls_of_no_operand hf hop
    · have hb := b.isLt
      rw [decodeLls, decodeSymbol_noExtra hT hw, Rd.bind_of_got, if_pos (by omega)]
      simp
    · rw [decodeLls, decodeSymbol_noExtra hT hw]
      rfl
    · rw [decodeLls, decodeSymbol_noExtra hT hw]
      cases odd <;> rfl

theorem decodeDs_encode (hT : c.dt.Decodable) (hf : i.fmt = .ds) (hw : encode c i = some w) :
    decodeDs bitReader c (w ++ r) = .got i r := by
  cases hop : distOperand i with
  | some p =>
    obtain ⟨sym, e⟩ := p
    obtain ⟨hhi, he, rfl⟩ := distInstr_of_operand hop
    rw [encode_distInstr c (by omega)] at hw
    rw [decodeDs, decodeSymbol_symbolWord hT hw, Rd.bind_of_got, if_pos hhi, bitReader_bitsOfNat,
      Nat.mod_eq_of_lt he, Rd.map_of_got]
  | none =>
    obtain ⟨odd, rfl⟩ := ds_of_no_operand hf hop
    rw [decodeDs, decodeSymbol_noExtra hT hw]
    cases odd <;> rfl

theorem decodeCls_encode (hT : c.cl.Decodable) (hf : i.fmt = .cls) (hrep : ∀ e, i = .clRep e → c.nlens ≠ 0)
    (hw : encode c i = some w) : decodeCls bitReader c (w ++ r) = .got i r := by
  cases i
  case clLen len =>
    have hlen := len.isLt
    rw [decodeCls, decodeSymbol_noExtra hT hw, Rd.bind_of_got, if_pos (by omega)]
    simp
  case clRep e =>
    rw [decodeCls, decodeSymbol_symbolWord hT hw]
    simp [hrep e rfl, bitReader_field]
  case clZrep3 e =>
    rw [decodeCls, decodeSymbol_symbolWord hT hw]
    simp [bitReader_field]
  case clZrep11 e =>
    rw [decodeCls, decodeSymbol_symbolWord hT hw]
    simp [bitReader_field]
  all_goals cases hf

/-! ## The other formats (R101 to R104, R114 to R121) -/

theorem decode_blockHdr (f : Bool) (hb : k < 4) (hw : blockWord f k = some w) :
    decode bitReader c .bh (w ++ r) = .got (blockInstr f k) r := by
  cases hw
  have hflag : bitReader.bits 1 (f :: (bitsOfNat 2 k ++ r)) = .got f.toNat (bitsOfNat 2 k ++ r) :=
    bitReader_bits (by simp)
  rw [List.cons_append, decode, hflag, Rd.bind_of_got, bitReader_bitsOfNat,
    Nat.mod_eq_of_lt (show k < 2 ^ 2 from hb), Rd.map_of_got]
  cases f <;> rfl

theorem decode_zlibHdr (cmf flg : Byte) :
    decode bitReader c .zh (bitsOfBytes [cmf, flg] ++ r) = .got (zlibInstr cmf flg) r := by
  simp [decode, bitsOfBytes, bitReader_byteField]

theorem decode_chunkHdr (len ctype : Word) (hw : chunkWord len ctype = some w) :
    decode bitReader c .ch (w ++ r) = .got (chunkInstr len ctype) r := by
  cases hw
  simp [decode, readBE_word]

theorem decode_filterByte (t : Byte) : decode bitReader c .fs (bitsOfBytes [t] ++ r) = .got (filterInstr t) r := by
  simp [decode, bitsOfBytes, bitReader_byteField]

/-- The formats without a Huffman code. -/
theorem decode_encode_plain (hf : i.fmt ∉ [Fmt.cls, .lls, .ds]) (hwf : i.wellFormed = true)
    (hcll : ∀ lens, i = .dynCll lens → lens.length = c.hclen) (hw : encode c i = some w) :
    decode bitReader c i.fmt (w ++ r) = .got i r := by
  cases i with
  | blkStored f => exact decode_blockHdr f (k := 0) (by decide) hw
  | blkFixed f => exact decode_blockHdr f (k := 1) (by decide) hw
  | blkDyn f => exact decode_blockHdr f (k := 2) (by decide) hw
  | blkRsvd f => exact decode_blockHdr f (k := 3) (by decide) hw
  | storedHdr len nlen =>
    cases hw
    simp [decode, Instr.fmt, bitReader_field]
  | dynHdr hlit hdist hclen =>
    cases hw
    simp [decode, Instr.fmt, bitReader_field]
  | dynCll lens =>
    cases hw
    rw [Instr.fmt, decode, ← hcll lens rfl, readCll_lengths, Rd.map_of_got]
  | zlibHdr cmf flg | zlibHdrFdict cmf flg | zlibHdrBadcm cmf flg =>
    cases hw
    rw [Instr.fmt, decode_zlibHdr]
    simp_all [Instr.wellFormed, zlibInstr]
  | zlibDictid id | zlibTrailer id =>
    cases hw
    simp [decode, Instr.fmt, readBE_word]
  | pngSig bytes =>
    cases hw
    simp [decode, Instr.fmt, readBE_signature]
  | chunkIhdr len => exact decode_chunkHdr len typeIhdr hw
  | chunkIdat len => exact decode_chunkHdr len typeIdat hw
  | chunkIend len => exact decode_chunkHdr len typeIend hw
  | chunkAnc len ctype | chunkCrit len ctype =>
    rw [Instr.fmt, decode_chunkHdr len ctype hw]
    simp_all [Instr.wellFormed, chunkInstr_of_unknown]
  | ihdrPayload width height depth colour comp filt ilace =>
    cases hw
    simp [decode, Instr.fmt, readBE_word, bitsOfBytes, bitReader_byteField]
  | fltNone | fltSub | fltUp | fltAvg | fltPaeth =>
    cases hw
    exact decode_filterByte _
  | fltInv t =>
    cases hw
    rw [Instr.fmt, decode_filterByte, filterInstr_of_invalid (of_decide_eq_true hwf)]
  | _ => simp [Instr.fmt] at hf

/-! ## Settled -/

/-- Settles O5: a canonical code's symbols are found by their codes, and every other field is read as it was written. -/
theorem decodeInvertsEncode : Obligations.DecodeInvertsEncode := by
  intro c i w rest hcl hll hdt hwf hcll hrep hw
  cases hf : i.fmt with
  | cls => exact decodeCls_encode (decodable_of_canonical hcl) hf hrep hw
  | lls => exact decodeLls_encode (decodable_of_canonical hll) hf hw
  | ds => exact decodeDs_encode (decodable_of_canonical hdt) hf hw
  | _ => exact hf ▸ decode_encode_plain (by simp [hf]) hwf hcll hw

end Sys2Proof
end

section
/-! PROOFS. The stored copy (R190, R191): a byte emitted in modes 0 and 1 is on its port one step later, so a pass that
copies a raw byte and the transfer of that byte are two steps, and the copy is an induction on its bytes. -/

namespace Sys2Proof.Machine

variable {s t : State} {b : Byte} {rest : List Byte}

/-! ## A byte emitted and transferred (R62, R216) -/

/-- `s` after `Emit(b)` in modes 0 and 1 and the transfer of `b` on the byte-output port. -/
def delivered (b : Byte) (s : State) : State := { emit b s with offer := [], log := s.log ++ [.byte b] }

@[simp] theorem delivered_mode (b : Byte) (s : State) : (delivered b s).mode = s.mode := emit_mode b s
@[simp] theorem delivered_runState (b : Byte) (s : State) : (delivered b s).runState = s.runState := emit_runState b s
@[simp] theorem delivered_pos (b : Byte) (s : State) : (delivered b s).pos = s.pos := emit_pos b s
@[simp] theorem delivered_phase (b : Byte) (s : State) : (delivered b s).phase = s.phase := emit_phase b s
@[simp] theorem delivered_bsr (b : Byte) (s : State) : (delivered b s).bsr = s.bsr := emit_bsr b s
@[simp] theorem delivered_inf (b : Byte) (s : State) : (delivered b s).inf = s.inf := emit_inf b s
@[simp] theorem delivered_win (b : Byte) (s : State) : (delivered b s).win = s.win.push b := emit_win b s
@[simp] theorem delivered_fifo (b : Byte) (s : State) : (delivered b s).fifo = s.fifo := emit_fifo b s
@[simp] theorem delivered_obReady (b : Byte) (s : State) : (delivered b s).obReady = s.obReady := emit_obReady b s
@[simp] theorem delivered_host (b : Byte) (s : State) : (delivered b s).host = s.host := emit_host b s
@[simp] theorem delivered_log (b : Byte) (s : State) : (delivered b s).log = s.log ++ [.byte b] := rfl

/-- The step that emits a byte and the step that transfers it. -/
theorem runSteps_emit (hs : step s = .next (emit b t)) (ht : Ready t) (hm : t.mode ≠ .png) (ho : t.obReady = true) :
    runSteps 2 s = .next (delivered b t) := by
  have hoffer : (emit b t).offer = [.byte b] ++ [] := by rw [emit_offer, if_neg hm, ht.drained]; rfl
  have hport : ∀ x ∈ [OutXfer.byte b], x.accepted (emit b t) = true ∧ x.endsScanline = false := by
    simpa [OutXfer.accepted, OutXfer.endsScanline] using ho
  have hdrain := runSteps_drain [.byte b] [] (s := emit b t) (by simp [ht.busy]) (by simp [ht.noHost]) hoffer hport
  rw [emit_log] at hdrain
  rw [runSteps_succ 1 hs]
  exact hdrain

theorem ready_delivered (h : Ready s) (hm : s.mode ≠ .png) : Ready (delivered b s) where
  busy := by simp [h.busy]
  drained := rfl
  noScanline := by simp [State.scanlineDue, hm]
  noHost := by simp [h.noHost]

/-! ## A pass of the copy (R190) -/

theorem step_operation (h : Ready s) (hf : s.phase.fmt = none) : step s = runOperation s := by
  rw [step_eq_runNext h.busy h.drained h.noHost, runNext, h.noScanline, hf]
  rfl

theorem runOperation_storedCopy (hp : s.phase = .storedCopy) : runOperation s = storedCopy s := by
  simp only [runOperation, hp]

theorem storedCopy_got (hn : s.inf.srem ≠ 0) (hg : currentGet s = .got b t) :
    storedCopy s = .next (emit b { t with inf := { t.inf with srem := t.inf.srem - 1 } }) := by
  simp only [storedCopy, if_neg hn, hg]

/-- `s` after the pass that takes a raw byte from the input queue, but for its `Emit`. -/
def rawTaken (rest : List Byte) (s : State) : State :=
  { s with fifo := rest, pos := s.pos + 1, inf := { s.inf with srem := s.inf.srem - 1 } }

theorem ready_rawTaken (h : Ready s) : Ready (rawTaken rest s) := ⟨h.busy, h.drained, h.noScanline, h.noHost⟩

/-- One raw byte is copied and delivered in two steps. -/
theorem runSteps_storedByte (h : Ready s) (hm : s.mode ≠ .png) (hp : s.phase = .storedCopy) (ho : s.obReady = true)
    (hn : s.inf.srem ≠ 0) (hf : s.fifo = b :: rest) : runSteps 2 s = .next (delivered b (rawTaken rest s)) := by
  have hget : currentGet s = _ := (currentGet_primary hm).trans (primaryGet_cons hf)
  have hstep : step s = .next (emit b (rawTaken rest s)) := by
    rw [step_operation h (by rw [hp]; rfl), runOperation_storedCopy hp, storedCopy_got hn hget]
    rfl
  exact runSteps_emit hstep (ready_rawTaken h) hm ho

/-- Settles O16, by induction on the raw bytes, two steps for each. -/
theorem storedCopyDeliversRawBytes : Obligations.StoredCopyDeliversRawBytes := by
  intro s raw rest hr hm hp ho hn hf
  induction raw generalizing s with
  | nil => exact ⟨s, rfl, hr, hp, hn, (List.append_nil _).symm, hf, rfl, rfl, rfl⟩
  | cons b raw ih =>
    have hone := runSteps_storedByte (rest := raw ++ rest) hr hm hp ho (by simp [hn]) hf
    obtain ⟨t, hrun, hready, hphase, hsrem, hlog, hfifo, hpos, hbsr, htotal⟩ :=
      ih (delivered b (rawTaken (raw ++ rest) s)) (ready_delivered (ready_rawTaken hr) hm)
        (by simpa) (by simpa) (by simpa) (by simp [rawTaken, hn]) (by simp [rawTaken])
    refine ⟨t, ?_, hready, hphase, hsrem, ?_, hfifo, ?_, ?_, ?_⟩
    · rw [List.length_cons, Nat.mul_succ, Nat.add_comm, runSteps_add _ hone, hrun]
    · simp [hlog, rawTaken]
    · simp [hpos, rawTaken, Nat.add_assoc, Nat.add_comm 1]
    · simp [hbsr, rawTaken]
    · simp [htotal, rawTaken, Nat.add_assoc, Nat.add_comm 1]

end Sys2Proof.Machine
end

section
/-! PROOFS. The elements of the block level (R187 to R204): the next state of each in full. -/

namespace Sys2Proof.Machine

variable {s : State} {ls : List (BitVec 4)} {lens : List (BitVec 3)}

/-! ## Block headers -/

theorem exec_blkStored (f : Bool) (h : AccumulatorBound s) : exec (.blkStored f) s = .next { blockHeader f 0#2 s with
    bsr := { acc := 0#32, cnt := 0 }
    phase := .storedHdr } := by
  have halign := alignDiscardsTheResidue (blockHeader f 0#2 s) h
  change execBlkStored f s = _
  rw [execBlkStored, halign]

/-- Both tables are built, the distance table last: the build scratch is its own (R192, R204). -/
theorem buildLl_buildDt (lits dists : List (BitVec 4)) (u : Huf) : (u.buildLl lits).buildDt dists = { u with
    ll := hufTable lits
    dt := hufTable dists
    count := lengthCounts dists
    nextCode := hufNextCode dists } := rfl

theorem exec_blkFixed (f : Bool) : exec (.blkFixed f) s = .next { blockHeader f 1#2 s with
    huf := (s.huf.buildLl fixedLitLengths).buildDt fixedDistLengths
    phase := .body } := rfl

/-- Settles O14: by the two headers that do more than write registers, an alignment and two table builds. -/
theorem blockHeadersComplete : Obligations.BlockHeadersComplete := by
  intro s f
  refine ⟨fun hb => exec_blkStored f hb, ?_, rfl, rfl⟩
  rw [exec_blkFixed, buildLl_buildDt, fixedLitLengths, fixedDistLengths]
  rfl

/-! ## The stored header -/

/-- Settles O15, by the test of NLEN. -/
theorem storedHeaderChecksLength : Obligations.StoredHeaderChecksLength :=
  fun _ _ _ => ⟨fun h => if_neg (not_not.2 h), fun h => if_pos h⟩

/-! ## The dynamic header -/

/-- Settles O17: the meaning of DYN.HDR, which tests nothing. -/
theorem dynamicHeaderCounts : Obligations.DynamicHeaderCounts := fun _ _ _ _ => rfl

/-- The first place of `CLORD` that names the symbol at place i is i: no symbol is named twice (R113). -/
theorem findIdx?_clOrder : ∀ i, i < 19 → clOrder.getD i 0 < 19 ∧
    clOrder.findIdx? (fun p => decide (p = clOrder.getD i 0)) = some i := by decide

theorem placeCll_length : (placeCll lens).length = 19 := by simp [placeCll]

/-- A position has the length listed at its place in `CLORD` (R196). -/
theorem placeCll_getD {i j : Nat} (hj : j < 19) (h : clOrder.findIdx? (fun p => decide (p = j)) = some i) :
    (placeCll lens).getD j 0#3 = lens.getD i 0#3 := by
  simp [placeCll, hj, h]

/-- Settles O18: each place of `CLORD` is the only one of its symbol, so its length is the one placed there. -/
theorem codeLengthCodeIsPlaced : Obligations.CodeLengthCodeIsPlaced :=
  fun _ lens => ⟨placeCll lens, placeCll_length, fun i hi =>
    have ⟨hlt, hfind⟩ := findIdx?_clOrder i hi
    placeCll_getD hlt hfind, rfl⟩

/-! ## Code lengths -/

/-- Settles O19: the lengths after the first hlit are all of the distance lengths. -/
theorem codeLengthsFillBothTables : Obligations.CodeLengthsFillBothTables := by
  refine fun s ls => ⟨fun h => if_pos h, fun h => ?_⟩
  have hdist : ((s.inf.lens ++ ls).drop s.inf.hlit).take s.inf.hdist = (s.inf.lens ++ ls).drop s.inf.hlit :=
    List.take_of_length_le (by rw [List.length_drop, h, Nat.add_sub_cancel_left])
  have hfull : ¬ (s.inf.lens ++ ls).length < lensTotal s := h.not_lt
  refine (if_neg hfull).trans ?_
  rw [hdist, buildLl_buildDt]

/-- A repeat element repeats the length of its operand (R200 to R202). -/
theorem exec_repeat {i : Instr} {previous value : BitVec 4} {count : Nat} (h : repeatOperand previous i = some (count, value))
    (hp : s.inf.lens.getLast? = some previous ∨ ∀ e, i ≠ .clRep e) : exec i s = repeatLen count value s := by
  cases i with
  | clRep e =>
    cases h
    obtain hlast | hne := hp
    · change execClRep e s = _
      simp only [execClRep, hlast]
    · exact absurd rfl (hne e)
  | clZrep3 e | clZrep11 e => cases h; rfl
  | _ => cases h

theorem repeatLen_eq (count : Nat) (l : BitVec 4) (s : State) : repeatLen count l s =
    .next (if s.inf.lens.length + count ≤ lensTotal s then appendLens (List.replicate count l) s
      else latch (.deflate .invalidDynamicReference) s) := by
  obtain ⟨hle, h⟩ | ⟨hlt, h⟩ := repeatLen_cases count l s
  · rw [h, if_pos hle]
  · rw [h, if_neg hlt.not_ge]

theorem execClRep_first (e : BitVec 2) (h : s.inf.lens = []) :
    execClRep e s = .next (latch (.deflate .invalidDynamicReference) s) := by
  simp only [execClRep, h, List.getLast?_nil, raise]

/-- Settles O20: a repeat is `repeatLen` of its operand, unless it has no previous length. -/
theorem codeLengthSymbols : Obligations.CodeLengthSymbols := by
  refine fun s => ⟨fun _ => rfl, fun i previous count value hp hi => ?_, fun e h => execClRep_first e h⟩
  exact (exec_repeat hi (hp.imp_right And.right)).trans (repeatLen_eq count value s)

end Sys2Proof.Machine
end

section
/-! PROOFS. The elements of the body of a Huffman block (R216 to R221, R230 to R290): the next state of each in full.
The 29 length elements are one operation on a row of the table of R111, the 30 distance elements one on a row of the
table of R112. -/

namespace Sys2Proof.Machine

variable {s : State} {i : Instr}

/-! ## Literals (R216, R217) -/

theorem emit_frame (b : Byte) (s : State) : emit b s =
    { s with win := (emit b s).win, adl := (emit b s).adl, flt := (emit b s).flt, offer := (emit b s).offer } := by
  unfold emit fltPush
  split
  · rfl
  · rfl
  · split <;> rfl

/-- Settles O21: the laws of `Emit`, register by register, and those of a push of the window. -/
theorem literalEmitsOneByte : Obligations.LiteralEmitsOneByte := by
  refine ⟨fun _ _ => rfl, ?_⟩
  rintro s _ b hwf rfl
  refine ⟨?_, fun a ha => ?_, ?_, ?_, ?_, fun hm => ?_, fun hm => ?_, fun hm => ?_, emit_frame b s⟩
  · rw [emit_win, push_read_same]
  · rw [emit_win, push_read_other b s.win a ha.symm hwf]
  · rw [emit_win, push_wr]
  · rw [emit_win, push_fill, Config.winSize]
  · rw [emit_win, push_total]
  · simp [emit_adl, emit_flt, emit_offer, hm]
  · simp [emit_adl, emit_flt, emit_offer, hm]
  · cases hf : s.flt.ferr <;> simp [emit_adl, emit_flt, emit_offer, hm, hf]

/-! ## The end of a block (R186, R205, R308) -/

theorem endBlock_more (h : s.inf.bfinal = false) : endBlock s = { s with phase := .blockHdr } := by
  simp [endBlock, h]

theorem endBlock_done (h : s.inf.bfinal = true) (hm : s.mode = .rawDeflate) :
    endBlock s = { s with runState := .done } := by
  simp [endBlock, endStream, succeed, h, hm]

theorem endBlock_trailer (h : s.inf.bfinal = true) (hm : s.mode ≠ .rawDeflate) :
    endBlock s = { s with phase := .trailer } := by
  rw [endBlock, if_pos h]
  unfold endStream
  split
  · exact absurd ‹_› hm
  · rfl
  · rfl

/-- Settles O22: EOB writes its symbol and ends the block. -/
theorem endOfBlockContinues : Obligations.EndOfBlockContinues :=
  fun _ => ⟨fun h => congrArg Host.Outcome.next (endBlock_more h),
    fun h hm => congrArg Host.Outcome.next (endBlock_done h hm),
    fun h hm => congrArg Host.Outcome.next (endBlock_trailer h hm)⟩

/-! ## Illegal symbols -/

/-- Settles O23: the symbol register is the base symbol and the low bit of the element. -/
theorem illegalSymbolsLatch : Obligations.IllegalSymbolsLatch := fun _ => ⟨rfl, rfl, rfl, rfl⟩

/-! ## Match lengths and distances -/

/-- A length element is its symbol's row of the table of R111. -/
theorem exec_length {sym e : Nat} (h : lengthOperand i = some (sym, e)) (s : State) :
    exec i s = lengthSymbol (BitVec.ofNat 9 sym) (lengthBase.getD (sym - 257) 0 + e) s := by
  cases i <;> cases h <;> rfl

/-- Settles O24: by the table, row by row. -/
theorem lengthSymbolsSetLength : Obligations.LengthSymbolsSetLength := fun s _ _ _ h => exec_length h s

/-- A distance element is its symbol's row of the table of R112. -/
theorem exec_dist {d e : Nat} (h : distOperand i = some (d, e)) (s : State) :
    exec i s = distanceSymbol (BitVec.ofNat 5 d) (distBase.getD d 0 + e) s := by
  cases i <;> cases h <;> rfl

theorem distanceSymbol_within {dist : Nat} (dsym : BitVec 5) (h : dist ≤ s.win.fill) :
    distanceSymbol dsym dist s = .next { s with
      inf := { s.inf with dsym := dsym, mdist := dist, crem := s.inf.mlen }
      phase := .copy } := if_neg h.not_gt

theorem distanceSymbol_beyond {dist : Nat} (dsym : BitVec 5) (h : s.win.fill < dist) :
    distanceSymbol dsym dist s = .next (latch (.deflate .corruptDistance) { s with
      inf := { s.inf with dsym := dsym, mdist := dist } }) := if_pos h

/-- Settles O25: by the table, and the test against `WIN.fill`. -/
theorem distanceSymbolsStartTheCopy : Obligations.DistanceSymbolsStartTheCopy := by
  rintro s i d e _ h rfl
  exact ⟨fun hle => (exec_dist h s).trans (distanceSymbol_within _ hle),
    fun hlt => (exec_dist h s).trans (distanceSymbol_beyond _ hlt)⟩

end Sys2Proof.Machine
end

section
/-! PROOFS. The passes of the two copies (R190, R222), and the match copy as a whole (R80, R81, R223): a copied byte
moves every byte of the history one place back and is itself the last one, so after it the next byte to copy is again
the one `INF.mdist` back, and the copy is an induction on `INF.crem`. -/

namespace Sys2Proof.Machine

variable {s t : State} {b : Byte} {w : Win}

/-! ## Each pass -/

/-- `s` after the pass that copies a byte of the window, but for its `Emit`. -/
def matchCounted (s : State) : State := { s with inf := { s.inf with crem := s.inf.crem - 1 } }

@[simp] theorem matchCounted_win (s : State) : (matchCounted s).win = s.win := rfl

theorem step_copy (h : Ready s) (hp : s.phase = .copy) : step s = copyByte s := by
  rw [step_operation h (by rw [hp]; rfl)]
  simp only [runOperation, hp]

theorem copyByte_read (hn : s.inf.crem ≠ 0) (hb : s.windowBack s.inf.mdist = some b) :
    copyByte s = .next (emit b (matchCounted s)) := by
  have hread : Memory.read s.win.mem (s.win.addrBack s.inf.mdist) = some b := hb
  simp only [copyByte, if_neg hn, hread, matchCounted]

theorem copyByte_end (hn : s.inf.crem = 0) : copyByte s = .next { s with phase := .body } := if_pos hn

theorem step_storedCopy (h : Ready s) (hp : s.phase = .storedCopy) : step s = storedCopy s := by
  rw [step_operation h (by rw [hp]; rfl), runOperation_storedCopy hp]

theorem storedCopy_eof (hn : s.inf.srem ≠ 0) (hg : currentGet s = .eof) :
    storedCopy s = .next (latch (.deflate .endOfStream) s) := by
  simp only [storedCopy, if_neg hn, hg, raise]

theorem storedCopy_wait (hn : s.inf.srem ≠ 0) (hg : currentGet s = .wait) : storedCopy s = .next s := by
  simp only [storedCopy, if_neg hn, hg]

theorem storedCopy_end (hn : s.inf.srem = 0) : storedCopy s = .next (endBlock s) := if_pos hn

/-- A read leaves the block decoder's registers as they were. -/
theorem ConsumesSome.inf (hc : ConsumesSome s t) : t.inf = s.inf := by
  obtain ⟨n, hn⟩ := hc
  rw [hn.frame]

/-- Settles O27: each pass by what its copy has left and, for the stored copy, by what the byte source answers. -/
theorem copyPasses : Obligations.CopyPasses := by
  intro s h
  refine ⟨fun b hp hn hb => (step_copy h hp).trans (copyByte_read hn hb),
    fun hp hn => (step_copy h hp).trans (copyByte_end hn), fun b t hp hn hg => ?_, fun hp hn hg => ?_,
    fun hp hn hg => ?_, fun hp hn hf => ?_, fun hp hn hf hm => ?_, fun hp hn hf hm => ?_⟩
  all_goals rw [step_storedCopy h hp]
  · rw [storedCopy_got hn hg, (currentGet_consumes hg).inf]
  · exact storedCopy_eof hn hg
  · exact storedCopy_wait hn hg
  · rw [storedCopy_end hn, endBlock_more hf]
  · rw [storedCopy_end hn, endBlock_trailer hf hm]
  · rw [storedCopy_end hn, endBlock_done hf hm]

/-! ## The history of a pushed window (R80) -/

/-- After a push the address one further back is the one before it. -/
theorem addrBack_push_succ (b : Byte) (w : Win) (d : Nat) : (w.push b).addrBack (d + 1) = w.addrBack d := by
  have haddr : w.wr + 1#15 - BitVec.ofNat 15 (d + 1) = w.wr - BitVec.ofNat 15 d := by
    rw [← BitVec.ofNat_add_ofNat]
    abel
  rw [Win.addrBack, push_wr, haddr, Win.addrBack]

theorem addrBack_zero (w : Win) : w.addrBack 0 = w.wr.toNat := by simp [Win.addrBack]

theorem read_push_back_one (b : Byte) (w : Win) : Memory.read (w.push b).mem ((w.push b).addrBack 1) = some b := by
  rw [addrBack_push_succ b w 0, addrBack_zero, push_read_same]

theorem read_push_back_succ (b : Byte) (hw : Memory.wf w.mem = true) {d : Nat} (h1 : 1 ≤ d) (h2 : d < 32768) :
    Memory.read (w.push b).mem ((w.push b).addrBack (d + 1)) = Memory.read w.mem (w.addrBack d) := by
  have hne : w.wr.toNat ≠ w.addrBack d := by
    have hlt := w.wr.isLt
    rw [addrBack_eq w d h2.le]
    omega
  rw [addrBack_push_succ, push_read_other b w _ hne hw]

/-- The byte that a copy of distance `dist` reads k passes from now, in the window (R222). -/
def Win.copySource (dist k : Nat) (w : Win) : Option Byte := Memory.read w.mem (w.addrBack (dist - k % dist))

theorem copySource_zero (dist : Nat) (w : Win) : w.copySource dist 0 = Memory.read w.mem (w.addrBack dist) := by
  rw [Win.copySource, Nat.zero_mod, Nat.sub_zero]

/-- When the next byte has been copied, each source stands one place further back, but for the last of the distance:
there the next source is the copied byte itself, which repeats the first (R81, R223). -/
theorem copySource_push {dist : Nat} (k : Nat) (hw : Memory.wf w.mem = true) (h1 : 1 ≤ dist) (h2 : dist ≤ 32768)
    (hb : w.copySource dist 0 = some b) : (w.push b).copySource dist k = w.copySource dist (k + 1) := by
  have hlt : k % dist < dist := Nat.mod_lt k h1
  by_cases hlast : k % dist = dist - 1
  · have hwrap : (k + 1) % dist = 0 := by
      rw [← Nat.mod_add_mod, hlast, Nat.sub_add_cancel h1, Nat.mod_self]
    have hback : dist - k % dist = 1 := by omega
    rw [Win.copySource, hback, read_push_back_one, ← hb, Win.copySource, Win.copySource, hwrap, Nat.zero_mod]
  · have hnext : (k + 1) % dist = k % dist + 1 := by
      rw [← Nat.mod_add_mod, Nat.mod_eq_of_lt (by omega)]
    have hback : dist - k % dist = dist - (k + 1) % dist + 1 := by omega
    rw [Win.copySource, hback, read_push_back_succ b hw (by omega) (by omega), Win.copySource]

/-! ## The whole copy (R222) -/

theorem ready_matchCounted (h : Ready s) : Ready (matchCounted s) := ⟨h.busy, h.drained, h.noScanline, h.noHost⟩

/-- One byte of the window is copied and delivered in two steps. -/
theorem runSteps_copyByte (h : Ready s) (hm : s.mode ≠ .png) (hp : s.phase = .copy) (ho : s.obReady = true)
    (hn : s.inf.crem ≠ 0) (hb : s.windowBack s.inf.mdist = some b) :
    runSteps 2 s = .next (delivered b (matchCounted s)) :=
  runSteps_emit ((step_copy h hp).trans (copyByte_read hn hb)) (ready_matchCounted h) hm ho

/-- Settles O26, by induction on the bytes left, two steps for each. -/
theorem matchCopyRepeatsLastBytes : Obligations.MatchCopyRepeatsLastBytes := by
  intro s dist n hr hm hp ho hcanon hcount hvalid hd h1 hfill hn
  have hw : WinOk s.win := (winOk_iff s).mpr ⟨hcanon, hcount, hvalid⟩
  clear hcanon hcount hvalid
  induction n generalizing s with
  | zero =>
    exact ⟨s, [], rfl, hr, hp, hn, rfl, (List.append_nil _).symm, fun k hk => absurd hk k.not_lt_zero, rfl, rfl, rfl,
      rfl⟩
  | succ n ih =>
    have hle : s.win.fill ≤ 32768 := hw.fill ▸ Nat.min_le_right ..
    obtain ⟨b, hb⟩ := Option.isSome_iff_exists.mp (hw.valid dist h1 hfill)
    have hone := runSteps_copyByte hr hm hp ho (by simp [hn]) (hd ▸ hb)
    have hfill' : dist ≤ (s.win.push b).fill := by
      rw [push_fill, Config.winSize]
      omega
    obtain ⟨t, bytes, hrun, hready, hphase, hcrem, hlength, hlog, hbytes, htotal, hfifo, hpos, hbsr⟩ :=
      ih (delivered b (matchCounted s)) (ready_delivered (ready_matchCounted hr) hm) (by simpa) (by simpa) (by simpa)
        (by simpa) (by rwa [delivered_win]) (by simp [matchCounted, hn]) (by simpa using winOk_push b s.win hw)
    refine ⟨t, b :: bytes, ?_, hready, hphase, hcrem, congrArg Nat.succ hlength, ?_, fun k hk => ?_, ?_, ?_, ?_, ?_⟩
    · rw [Nat.mul_succ, Nat.add_comm, runSteps_add _ hone, hrun]
    · simp [hlog, matchCounted]
    · have hsource : s.win.copySource dist 0 = some b := (copySource_zero dist s.win).trans hb
      cases k with
      | zero => exact hsource
      | succ k =>
        have hback := hbytes k (Nat.lt_of_succ_lt_succ hk)
        rw [State.windowBack, delivered_win] at hback
        rw [List.getElem?_cons_succ, ← hback]
        exact (copySource_push k hw.wf h1 (hfill.trans hle) hsource).symm
    · simp [htotal, matchCounted, Nat.add_assoc, Nat.add_comm 1]
    · simp [hfifo, matchCounted]
    · simp [hpos, matchCounted]
    · simp [hbsr, matchCounted]

end Sys2Proof.Machine
end

section
/-! PROOFS. The elements of the zlib framer (R301 to R310): the next state of each in full. -/

namespace Sys2Proof.Machine

variable {s : State} {cmf flg : Byte} {stored : Word}

/-! ## The header (R301 to R306) -/

/-- CM is wrong (R302). -/
theorem cmOk_eq_false_iff (cmf : Byte) : cmOk cmf = false ↔ cmf.toNat % 16 ≠ 8 := decide_eq_false_iff_not

/-- FCHECK fails (R303). -/
theorem fcheckOk_eq_false_iff (cmf flg : Byte) :
    fcheckOk cmf flg = false ↔ (cmf.toNat * 256 + flg.toNat) % 31 ≠ 0 := decide_eq_false_iff_not

/-- `s` with the two header bytes in the framer's registers. -/
def headerRead (cmf flg : Byte) (s : State) : State := { s with zlf := { s.zlf with cmf := cmf, flg := flg } }

theorem zlibHeader_badCm (hc : cmf.toNat % 16 ≠ 8) :
    zlibHeader cmf flg s = .next (latch (.zlib .unsupportedCompressionMethod) (headerRead cmf flg s)) :=
  if_pos ((cmOk_eq_false_iff cmf).2 hc)

theorem zlibHeader_badFcheck (hc : cmf.toNat % 16 = 8) (hf : (cmf.toNat * 256 + flg.toNat) % 31 ≠ 0) :
    zlibHeader cmf flg s = .next (latch (.zlib .headerChecksumError) (headerRead cmf flg s)) :=
  (if_neg fun h => (cmOk_eq_false_iff cmf).1 h hc).trans (if_pos ((fcheckOk_eq_false_iff cmf flg).2 hf))

/-- A header that passes both tests: FDICT says whether the DICTID or the stream comes next (R305). -/
theorem zlibHeader_good (hc : cmf.toNat % 16 = 8) (hf : (cmf.toNat * 256 + flg.toNat) % 31 = 0) :
    zlibHeader cmf flg s = if headerFdict flg then .next { headerRead cmf flg s with phase := .dictid }
      else .next (infInit (headerRead cmf flg s)) :=
  (if_neg fun h => (cmOk_eq_false_iff cmf).1 h hc).trans
    (if_neg fun h => (fcheckOk_eq_false_iff cmf flg).1 h hf)

/-- Settles O32: the three tests of a header in their order; the DICTID only starts the stream. -/
theorem zlibHeaderOutcomes : Obligations.ZlibHeaderOutcomes :=
  fun _ _ _ => ⟨fun hc => zlibHeader_badCm hc,
    fun hc hf => ⟨zlibHeader_badFcheck hc hf, zlibHeader_badFcheck hc hf⟩,
    fun hc hf hd => (zlibHeader_good hc hf).trans (if_neg (Bool.eq_false_iff.1 hd)),
    fun hc hf hd => (zlibHeader_good hc hf).trans (if_pos hd),
    fun _ => rfl⟩

/-! ## The trailer (R308 to R310, R329) -/

theorem endFrame_zlib (hm : s.mode = .zlib) : endFrame s = .next { s with runState := .done } := by
  simp only [endFrame, hm, succeed]

theorem endFrame_png (hm : s.mode = .png) (hf : s.flt.ferr = false) :
    endFrame s = .next { s with phase := .runEnd } := by
  simp only [endFrame, hm, hf, Bool.false_eq_true, if_false]

theorem endFrame_png_ferr (hm : s.mode = .png) (hf : s.flt.ferr = true) :
    endFrame s = .next (latch (.png .unsupportedFilterType) s) := by
  simp only [endFrame, hm, hf, if_true, raise]

/-- `s` with the stored checksum in the framer's register. -/
def trailerRead (stored : Word) (s : State) : State := { s with zlf := { s.zlf with trailer := stored } }

theorem execZlibTrailer_mismatch (h : stored ≠ adlerValue s.adl) :
    execZlibTrailer stored s = .next (latch (.zlib .checksumError) (trailerRead stored s)) := if_pos h

theorem execZlibTrailer_match (h : stored = adlerValue s.adl) :
    execZlibTrailer stored s = endFrame (trailerRead stored s) := if_neg (not_not.2 h)

/-- Settles O33: the stored value against `ADL.VALUE`, then the end of the frame by mode and filter latch. -/
theorem trailerOutcomes : Obligations.TrailerOutcomes :=
  fun _ _ => ⟨fun h => execZlibTrailer_mismatch h,
    fun h hm => (execZlibTrailer_match h).trans (endFrame_zlib hm),
    fun h hm hf => (execZlibTrailer_match h).trans (endFrame_png hm hf),
    fun h hm hf => (execZlibTrailer_match h).trans (endFrame_png_ferr hm hf)⟩

end Sys2Proof.Machine
end

section
/-! PROOFS. The IDAT feeder from chunk to chunk (R330, R331, R465): it presents the payloads of consecutive IDAT chunks
as one sequence and touches only the input and `CHK`; where the chunks or the input end, it passes the empty chunks
first, and what is left then decides between `EOF` and waiting. -/

namespace Sys2Proof.Machine

variable {s t u : State} {bytes after tail : List Byte} {crcs : List (List Byte)} {n v fuel : Nat}

/-! ## What reads of the feeder leave as it was (R330) -/

/-- From `s` to `t` only the input queue, `POS` and `CHK` change. -/
def OnlyInputAndChk (s t : State) : Prop := t = { s with fifo := t.fifo, pos := t.pos, chk := t.chk }

theorem OnlyInputAndChk.trans (h : OnlyInputAndChk s t) (h' : OnlyInputAndChk t u) : OnlyInputAndChk s u := by
  rw [OnlyInputAndChk] at h h' ⊢
  rw [h', h]

theorem OnlyInputAndChk.of_consumes (hc : Consumes n s t) (hb : t.bsr = s.bsr) : OnlyInputAndChk s t := by
  have hframe := hc.frame
  rw [hb] at hframe
  rw [OnlyInputAndChk, hframe]

theorem primaryGet_onlyInputAndChk {b : Byte} (h : primaryGet s = .got b t) : OnlyInputAndChk s t :=
  .of_consumes (primaryGet_consumes h) (primaryGet_bsr h)

theorem skip_onlyInputAndChk {x : Unit} (h : skip n s = .got x t) : OnlyInputAndChk s t :=
  .of_consumes (skip_consumes h) (skip_bsr h)

theorem primaryReader_respects_onlyInputAndChk : primaryReader.Respects OnlyInputAndChk where
  refl _ := rfl
  trans := .trans
  bits _ h := nomatch h
  byte := primaryGet_onlyInputAndChk

theorem readBE_onlyInputAndChk {w : Nat} (h : readBE primaryReader n v s = .got w t) : OnlyInputAndChk s t :=
  readBE_rel primaryReader_respects_onlyInputAndChk h

theorem feederAdvance_onlyInputAndChk {x : Unit} (h : feederAdvance fuel s = .got x t) : OnlyInputAndChk s t := by
  induction fuel generalizing s with
  | zero => cases h
  | succ fuel ih =>
    rw [feederAdvance] at h
    split at h
    · cases h
      rfl
    · obtain ⟨_, s1, hskip, h⟩ := Rd.bind_got h
      obtain ⟨len, s2, hlen, h⟩ := Rd.bind_got h
      obtain ⟨ctype, s3, hctype, h⟩ := Rd.bind_got h
      have hheader : OnlyInputAndChk s s3 := (skip_onlyInputAndChk hskip).trans
        ((readBE_onlyInputAndChk hlen).trans (readBE_onlyInputAndChk hctype))
      split at h
      · cases h
      · have hrest := ih h
        exact hheader.trans hrest

theorem feederGet_onlyInputAndChk {b : Byte} (h : feederGet s = .got b t) : OnlyInputAndChk s t := by
  obtain ⟨_, s1, hadvance, h⟩ := Rd.bind_got h
  obtain ⟨_, s2, hget, h⟩ := Rd.bind_got h
  cases h
  exact ((feederAdvance_onlyInputAndChk hadvance).trans (primaryGet_onlyInputAndChk hget)).trans rfl

theorem feedBytes_onlyInputAndChk (h : feedBytes n s = .got bytes t) : OnlyInputAndChk s t := by
  induction n generalizing s bytes with
  | zero => cases h; rfl
  | succ n ih =>
    obtain ⟨_, s1, hget, h⟩ := Rd.bind_got h
    obtain ⟨_, hrest, -⟩ := Rd.map_got h
    exact (feederGet_onlyInputAndChk hget).trans (ih hrest)

/-! ## The payloads as one sequence (R330, R91) -/

/-- As many reads as there are payload bytes give the payload. -/
theorem feedBytes_holds (h : FeederHolds s bytes after) : ∃ t, feedBytes bytes.length s = .got bytes t := by
  induction bytes generalizing s with
  | nil => exact ⟨s, rfl⟩
  | cons b bytes ih =>
    obtain ⟨s1, hget, hrest⟩ := feederGet_holds h
    obtain ⟨t, ht⟩ := ih hrest
    exact ⟨t, by rw [List.length_cons, feedBytes, hget, Rd.bind_of_got, ht, Rd.map_of_got]⟩

/-- Settles O37: the reads, by induction on the payload; their frame, by that of each read. -/
theorem feederConcatenatesPayloads : Obligations.FeederConcatenatesPayloads := by
  intro s first rest chunks hrem hfifo hchunks
  have hlength : first.length + (chunks.map fun c => c.2.length).sum = (first ++ chunks.flatMap Prod.snd).length := by
    rw [List.length_append, List.length_flatMap]
  rw [hlength]
  obtain ⟨t, ht⟩ := feedBytes_holds ⟨first, chunks, hrem, hfifo, hchunks, rfl⟩
  exact ⟨t, ht, feedBytes_onlyInputAndChk ht⟩

/-! ## Reads that lack bytes (R11, R465) -/

/-- A read that lacks a byte, and so the whole chain, fails at a known end and waits before. -/
theorem bind_missing {σ α β : Type} (inEnd : Bool) (f : α → σ → Rd σ β) :
    (if inEnd then .eof else .wait : Rd σ α).bind f = if inEnd then .eof else .wait := by
  cases inEnd <;> rfl

theorem skip_short (h : s.fifo.length < n) : skip n s = if s.inEnd then .eof else .wait := if_neg h.not_ge

theorem readBE_short (h : s.fifo.length < n) : readBE primaryReader n v s = if s.inEnd then .eof else .wait := by
  induction n generalizing s v with
  | zero => cases h
  | succ n ih =>
    have hread : primaryReader.byte s = primaryGet s := rfl
    rw [readBE, hread]
    cases hf : s.fifo with
    | nil => rw [primaryGet_nil hf, bind_missing]
    | cons b rest =>
      rw [primaryGet_cons hf, Rd.bind_of_got]
      exact ih (Nat.lt_of_succ_lt_succ (by rwa [hf] at h))

/-! ## Bytes as a big-endian field (R70) -/

theorem bytesBE_mul_add (n k w : Nat) : bytesBE n (256 ^ n * k + w) = bytesBE n w := by
  induction n generalizing k with
  | zero => rfl
  | succ n ih =>
    have hhead : BitVec.ofNat 8 (256 * k + w / 256 ^ n) = BitVec.ofNat 8 (w / 256 ^ n) :=
      BitVec.eq_of_toNat_eq (by simp)
    rw [bytesBE, pow_succ, mul_assoc, Nat.mul_add_div (by positivity), ih, hhead, bytesBE]

/-- Every byte sequence is the big-endian field of a value in its range. -/
theorem exists_bytesBE (l : List Byte) : ∃ w < 256 ^ l.length, bytesBE l.length w = l := by
  induction l with
  | nil => exact ⟨0, Nat.one_pos, rfl⟩
  | cons b l ih =>
    obtain ⟨w, hw, hl⟩ := ih
    have hb : b.toNat < 256 := b.isLt
    refine ⟨256 ^ l.length * b.toNat + w, ?_, ?_⟩
    · rw [List.length_cons, pow_succ]
      nlinarith
    · rw [List.length_cons, bytesBE, bytesBE_mul_add, hl, Nat.mul_add_div (by positivity), Nat.div_eq_of_lt hw,
        Nat.add_zero, BitVec.ofNat_toNat, BitVec.setWidth_eq]

/-! ## Ends of the feeder (R330, R331, R465) -/

/-- A header of another type ends the feeder. -/
theorem feederAdvance_otherType (fuel : Nat) {crc len ctype : List Byte} (h : s.chk.idatRem = 0)
    (hcrc : crc.length = 4) (hlen : len.length = 4) (hctype : ctype.length = 4)
    (hother : ctype ≠ bytesBE 4 typeIdat.toNat) (hf : s.fifo = crc ++ len ++ ctype ++ tail) :
    feederAdvance (fuel + 1) s = .eof := by
  obtain ⟨w, -, hw⟩ := exists_bytesBE len
  obtain ⟨c, hlt, hc⟩ := exists_bytesBE ctype
  rw [hlen] at hw
  rw [hctype] at hlt hc
  have hne : BitVec.ofNat 32 c ≠ typeIdat := by
    intro he
    refine hother ?_
    rw [← he, BitVec.toNat_ofNat, Nat.mod_eq_of_lt (show c < 2 ^ 32 from hlt), hc]
  have hskip : skip 4 s = _ := hcrc ▸ skip_append (by rw [hf, List.append_assoc, List.append_assoc])
  rw [feederAdvance, if_neg (not_not.2 h), hskip, Rd.bind_of_got, ← hw, ← hc, readBE_bytesBE rfl, Rd.bind_of_got,
    readBE_bytesBE rfl, Rd.bind_of_got, Nat.zero_mul, Nat.zero_add, Nat.mod_eq_of_lt hlt, if_pos hne]

/-- An incomplete CRC and header ends the feeder once the end is known. -/
theorem feederAdvance_short (fuel : Nat) (h : s.chk.idatRem = 0) (hl : s.fifo.length < 12) :
    feederAdvance (fuel + 1) s = if s.inEnd then .eof else .wait := by
  rw [feederAdvance, if_neg (not_not.2 h)]
  by_cases hcrc : s.fifo.length < 4
  · rw [skip_short hcrc, bind_missing]
  · have hskip : skip 4 s = .got () { s with fifo := s.fifo.drop 4, pos := s.pos + 4 } := if_pos (not_lt.1 hcrc)
    rw [hskip, Rd.bind_of_got]
    by_cases hlen : (s.fifo.drop 4).length < 4
    · rw [readBE_short hlen, bind_missing]
    · obtain ⟨w, -, hw⟩ := exists_bytesBE ((s.fifo.drop 4).take 4)
      rw [List.length_take_of_le (not_lt.1 hlen)] at hw
      have hsplit : s.fifo.drop 4 = bytesBE 4 w ++ (s.fifo.drop 4).drop 4 := by rw [hw, List.take_append_drop]
      have hctype : ((s.fifo.drop 4).drop 4).length < 4 := by
        rw [List.length_drop, List.length_drop]
        omega
      rw [readBE_bytesBE hsplit, Rd.bind_of_got, readBE_short hctype, bind_missing]

/-- At the end of a chunk the feeder passes all empty chunks that come next. -/
theorem feederAdvance_emptyChunks (hcrcs : ∀ c ∈ crcs, c.length = 4) (h : s.chk.idatRem = 0)
    (hf : s.fifo = emptyIdatChunks crcs ++ tail) (hfuel : s.fifo.length < fuel) :
    ∃ fuel' t, tail.length ≤ fuel' ∧ feederAdvance fuel s = feederAdvance (fuel' + 1) t ∧ t.chk.idatRem = 0 ∧
      t.fifo = tail ∧ t.inEnd = s.inEnd := by
  induction crcs generalizing s fuel with
  | nil =>
    obtain ⟨fuel, rfl⟩ := Nat.exists_eq_add_one_of_ne_zero (Nat.ne_zero_of_lt hfuel)
    have hf' : s.fifo = tail := hf
    exact ⟨fuel, s, hf' ▸ Nat.le_of_lt_succ hfuel, rfl, h, hf', rfl⟩
  | cons crc crcs ih =>
    obtain ⟨hcrc, hcrcs⟩ := List.forall_mem_cons.1 hcrcs
    obtain ⟨fuel, rfl⟩ := Nat.exists_eq_add_one_of_ne_zero (Nat.ne_zero_of_lt hfuel)
    have hf' : s.fifo = crc ++ bytesBE 4 0 ++ bytesBE 4 typeIdat.toNat ++ (emptyIdatChunks crcs ++ tail) := by
      rw [hf]
      simp [emptyIdatChunks, idatChunks]
    rw [feederAdvance_header fuel h hcrc (by decide) hf']
    refine ih hcrcs rfl rfl ?_
    rw [hf'] at hfuel
    simp only [List.length_append] at hfuel ⊢
    omega

theorem feederGet_of_advance_nil (ha : feederAdvance (s.fifo.length + 1) s = .got () t) (hf : t.fifo = []) :
    feederGet s = if t.inEnd then .eof else .wait := by
  rw [feederGet, ha, Rd.bind_of_got, primaryGet_nil hf, bind_missing]

/-- Settles O38: past the empty chunks the feeder meets another type, too few bytes, or a payload of which no byte is
there. -/
theorem feederEnds : Obligations.FeederEnds := by
  intro s crcs hcrcs
  refine ⟨fun crc len ctype rest h hf hcrc hlen hctype hother => ?_, fun part h hf hl => ?_,
    fun crc len h hcrc hpos hlen hf => ?_, fun h hf => ?_⟩
  · have hf' : s.fifo = emptyIdatChunks crcs ++ (crc ++ len ++ ctype ++ rest) := by
      rw [hf]
      simp only [List.append_assoc]
    obtain ⟨fuel, t, -, hadvance, ht, htail, -⟩ := feederAdvance_emptyChunks hcrcs h hf' (Nat.lt_succ_self _)
    rw [feederGet, hadvance, feederAdvance_otherType fuel ht hcrc hlen hctype hother htail]
    rfl
  · obtain ⟨fuel, t, -, hadvance, ht, htail, hend⟩ := feederAdvance_emptyChunks hcrcs h hf (Nat.lt_succ_self _)
    rw [feederGet, hadvance, feederAdvance_short fuel ht (htail ▸ hl), bind_missing, hend]
  · have hf' : s.fifo = emptyIdatChunks crcs ++ (crc ++ bytesBE 4 len ++ bytesBE 4 typeIdat.toNat ++ []) := by
      rw [hf, List.append_nil]
      simp only [List.append_assoc]
      rfl
    obtain ⟨fuel, t, hfuel, hadvance, ht, htail, hend⟩ := feederAdvance_emptyChunks hcrcs h hf' (Nat.lt_succ_self _)
    cases fuel with
    | zero => simp [hcrc] at hfuel
    | succ fuel =>
      rw [feederAdvance_header _ ht hcrc hlen htail, feederAdvance_inPayload fuel hpos.ne'] at hadvance
      rw [feederGet_of_advance_nil hadvance rfl, ← hend]
  · rw [feederGet_of_advance_nil (feederAdvance_inPayload _ h) hf]

end Sys2Proof.Machine
end

section
/-! PROOFS. The chunk iterator (R321 to R334, R361): the next state of the signature, of each chunk header and of each
skip that follows one, in full. -/

namespace Sys2Proof.Machine

variable {s : State} {len : Word} {n : Nat} {k : State → State}

/-! ## The signature and the first chunk (R321, R322) -/

theorem execPngSig_good {bytes : BitVec 64} (h : bytes = pngSignature) :
    execPngSig bytes s = .next { s with phase := .firstChunk } := if_neg (not_not.2 h)

theorem execPngSig_bad {bytes : BitVec 64} (h : bytes ≠ pngSignature) :
    execPngSig bytes s = .next (latch (.png .badSignature) s) := if_pos h

theorem execChunkIhdr_first (hp : s.phase = .firstChunk) (hlen : len = 13#32) :
    execChunkIhdr len s = .next { chunkHeader len typeIhdr s with phase := .ihdr } :=
  (if_pos hp).trans (if_neg (not_not.2 hlen))

theorem execChunkIhdr_firstLength (hp : s.phase = .firstChunk) (hlen : len ≠ 13#32) :
    execChunkIhdr len s = .next (latch (.png .invalidFirstChunk) (chunkHeader len typeIhdr s)) :=
  (if_pos hp).trans (if_pos hlen)

/-- Settles O34: by the signature, and the test of the first chunk that every chunk header makes. -/
theorem fileStartsWithSignatureAndIhdr : Obligations.FileStartsWithSignatureAndIhdr :=
  ⟨fun _ _ => ⟨execPngSig_good, execPngSig_bad⟩,
    fun _ _ _ hp => ⟨execChunkIhdr_first hp, execChunkIhdr_firstLength hp, notFirst_first _ hp, notFirst_first _ hp,
      notFirst_first _ hp, notFirst_first _ hp⟩⟩

/-! ## The chunks of the loop (R326 to R334) -/

theorem execChunkIhdr_later (hp : s.phase ≠ .firstChunk) :
    execChunkIhdr len s = .next (latch (.png .multipleIhdr) (chunkHeader len typeIhdr s)) := if_neg hp

theorem execChunkIdat_run (hp : s.phase ≠ .firstChunk) (hr : s.chk.runDone = false) :
    execChunkIdat len s = .next (zlfInit { s with
      chk := { s.chk with clen := len, ctype := typeIdat, idatRem := len.toNat } }) :=
  (notFirst_later (s := chunkHeader len typeIdat s) _ hp).trans (if_neg (Bool.eq_false_iff.1 hr))

theorem execChunkIdat_skipped (hp : s.phase ≠ .firstChunk) (hr : s.chk.runDone = true) :
    execChunkIdat len s = .next { chunkHeader len typeIdat s with phase := .chunkSkip } :=
  (notFirst_later (s := chunkHeader len typeIdat s) _ hp).trans (if_pos hr)

/-- Settles O35: no header of the loop is the first chunk; for IDAT, `CHK.run_done` decides. -/
theorem loopChunks : Obligations.LoopChunks := by
  intro s len ctype hp
  have hlater : s.phase ≠ .firstChunk := by simp [hp]
  exact ⟨execChunkIhdr_later hlater, execChunkIdat_run hlater, execChunkIdat_skipped hlater, notFirst_later _ hlater,
    notFirst_later _ hlater, notFirst_later _ hlater⟩

/-! ## The skips that follow a header (R328, R329, R332, R333, R361) -/

theorem skipThen_enough (h : n ≤ s.fifo.length) :
    skipThen n s k = .next (k { s with fifo := s.fifo.drop n, pos := s.pos + n }) := by
  obtain ⟨-, e⟩ | ⟨hlt, -⟩ | ⟨hlt, -⟩ := skipThen_cases n s k
  · exact e
  · exact absurd h hlt.not_ge
  · exact absurd h hlt.not_ge

theorem skipThen_eof (h : s.fifo.length < n) (he : s.inEnd = true) :
    skipThen n s k = .next (latch (.png .prematureEndOfFile) s) := by
  rw [skipThen, skip_short h, he]
  rfl

theorem skipThen_wait (h : s.fifo.length < n) (he : s.inEnd = false) : skipThen n s k = .next s := by
  rw [skipThen, skip_short h, he]
  rfl

/-- What comes after the skip of a phase: the end of the run after IEND, else the loop, with the run marked as done
after one. -/
def afterSkip : Phase → State → State
  | .iendCrc, t => succeed t
  | .runEnd, t => { t with chk := { t.chk with idatRem := 0, runDone := true }, phase := .chunk }
  | _, t => { t with phase := .chunk }

/-- A ready block in one of the skipping phases skips the bytes of the phase. -/
theorem step_skip (hr : Ready s)
    (hp : s.phase = .chunkSkip ∧ n = s.chk.clen.toNat + 4 ∨ s.phase = .iendCrc ∧ n = 4 ∨
      s.phase = .ihdrCrc ∧ n = 4 ∨ s.phase = .runEnd ∧ n = s.chk.idatRem + 4) :
    step s = skipThen n s (afterSkip s.phase) := by
  obtain ⟨hp, rfl⟩ | ⟨hp, rfl⟩ | ⟨hp, rfl⟩ | ⟨hp, rfl⟩ := hp
  all_goals
    rw [step_operation hr (by rw [hp]; rfl), runOperation, hp]
    rfl

/-- Settles O36: the step is the skip of the phase, which passes over its bytes, raises or waits. -/
theorem skipsAfterHeaders : Obligations.SkipsAfterHeaders := by
  intro s n hr hp
  rw [step_skip hr hp]
  refine ⟨fun hn => ?_, skipThen_eof, skipThen_wait⟩
  rw [skipThen_enough hn]
  refine ⟨fun h => ?_, fun h => by rw [h]; rfl, fun h => by rw [h]; rfl⟩
  rcases h with h | h <;> rw [h] <;> rfl

end Sys2Proof.Machine
end

section
/-! PROOFS. The reconstruction of a scanline (R373, R383, R385), column by column from the neighbours of R373, and the
Paeth predictor (R379). -/

namespace Sys2Proof.Machine

variable {pred : Byte → Byte → Byte → Byte} {bpp x : Nat} {first : Bool} {prior ins raw cur : List Byte}

/-! ## Columns (R373, R385) -/

/-- The last column is reconstructed from all the columns before it. -/
theorem filterRow_concat (i : Byte) : filterRow pred bpp first prior (ins ++ [i]) cur =
    filterRow pred bpp first prior ins cur ++ [i + pred
      (leftOf bpp (filterRow pred bpp first prior ins cur) (filterRow pred bpp first prior ins cur).length)
      (aboveOf first prior (filterRow pred bpp first prior ins cur).length)
      (cornerOf bpp first prior (filterRow pred bpp first prior ins cur).length)] := by
  induction ins generalizing cur with
  | nil => rfl
  | cons j ins ih => exact ih

/-- The left neighbour is read from the columns before its own only. -/
theorem neighbourA_congr (hb : 0 < bpp) (h : ∀ y < x, cur.getD y 0#8 = raw.getD y 0#8) :
    neighbourA bpp cur x = neighbourA bpp raw x := by
  unfold neighbourA
  split
  · exact h _ (by omega)
  · rfl

theorem cornerOf_eq (bpp : Nat) (first : Bool) (prior : List Byte) (x : Nat) :
    cornerOf bpp first prior x = neighbourC bpp first prior x := by
  cases first <;> simp [cornerOf, aboveOf, neighbourC]

/-- Each column is its input plus the predictor of its neighbours, the left one already reconstructed. -/
theorem filterRow_getD (hb : 0 < bpp) (hx : x < ins.length) : (filterRow pred bpp first prior ins []).getD x 0#8 =
    ins.getD x 0#8 + pred (neighbourA bpp (filterRow pred bpp first prior ins []) x) (neighbourB first prior x)
      (neighbourC bpp first prior x) := by
  induction ins using List.reverseRecOn with
  | nil => exact absurd hx (Nat.not_lt_zero x)
  | append_singleton ins i ih =>
    have hlen : (filterRow pred bpp first prior ins []).length = ins.length := by simp [filterRow_length]
    have hleft : neighbourA bpp (filterRow pred bpp first prior (ins ++ [i]) []) x =
        neighbourA bpp (filterRow pred bpp first prior ins []) x := by
      refine neighbourA_congr hb fun y hy => ?_
      have hy : y < ins.length := by simp at hx; omega
      rw [filterRow_concat, List.getD_append _ _ _ _ (hlen ▸ hy)]
    rw [hleft]
    obtain hx | rfl : x < ins.length ∨ x = ins.length := by simp at hx; omega
    · rw [filterRow_concat, List.getD_append _ _ _ _ (hlen ▸ hx), List.getD_append _ _ _ _ hx, ih hx]
    · rw [filterRow_concat, hlen, List.getD_append_right _ _ _ _ hlen.le, List.getD_append_right _ _ _ _ le_rfl, hlen,
        cornerOf_eq]
      simp only [Nat.sub_self, List.getD_cons_zero]
      rfl

theorem applyFilter_length (pred : Byte → Byte → Byte → Byte) (bpp : Nat) (first : Bool) (prior raw : List Byte) :
    (applyFilter pred bpp first prior raw).length = raw.length := by simp [applyFilter]

theorem applyFilter_getD (hx : x < raw.length) : (applyFilter pred bpp first prior raw).getD x 0#8 = raw.getD x 0#8 -
    pred (neighbourA bpp raw x) (neighbourB first prior x) (neighbourC bpp first prior x) := by
  simp [applyFilter, hx]

/-- Column by column from the left: with the columns before it restored, a column's predictor is the one that the filter
subtracted. -/
theorem filterRow_applyFilter_getD (hb : 0 < bpp) (hx : x < raw.length) :
    (filterRow pred bpp first prior (applyFilter pred bpp first prior raw) []).getD x 0#8 = raw.getD x 0#8 := by
  induction x using Nat.strong_induction_on with
  | _ x ih =>
    rw [filterRow_getD hb (by rwa [applyFilter_length]), applyFilter_getD hx,
      neighbourA_congr hb fun y hy => ih y hy (hy.trans hx), BitVec.sub_add_cancel]

/-- Settles O44: the two scanlines are as long as each other and agree in every column. -/
theorem reconstructionInvertsFilter : Obligations.ReconstructionInvertsFilter := by
  intro pred bpp first prior raw hb
  have hlen : (filterRow pred bpp first prior (applyFilter pred bpp first prior raw) []).length = raw.length := by
    rw [filterRow_length, applyFilter_length, List.length_nil, Nat.zero_add]
  refine List.ext_getElem hlen fun x hx hr => ?_
  rw [← List.getD_eq_getElem _ 0#8 hx, ← List.getD_eq_getElem _ 0#8 hr, filterRow_applyFilter_getD hb hr]

/-- Settles O41: the length of a reconstruction, and its columns. -/
theorem columnsAddThePredictor : Obligations.ColumnsAddThePredictor := by
  rintro pred bpp first prior ins cur hb rfl
  exact ⟨by simp [filterRow_length], fun x => filterRow_getD hb⟩

/-! ## The Paeth predictor (R378, R379) -/

/-- The distances of the initial estimate a + b - c from the three neighbours, with the estimate put in. -/
theorem paeth_eq (a b c : Byte) : paeth a b c =
    if ((b.toNat : Int) - c.toNat).natAbs ≤ ((a.toNat : Int) - c.toNat).natAbs ∧
        ((b.toNat : Int) - c.toNat).natAbs ≤ ((a.toNat : Int) + b.toNat - 2 * c.toNat).natAbs then a
    else if ((a.toNat : Int) - c.toNat).natAbs ≤ ((a.toNat : Int) + b.toNat - 2 * c.toNat).natAbs then b
    else c := by
  have ha : (a.toNat : Int) + b.toNat - c.toNat - a.toNat = b.toNat - c.toNat := by ring
  have hb : (a.toNat : Int) + b.toNat - c.toNat - b.toNat = a.toNat - c.toNat := by ring
  have hc : (a.toNat : Int) + b.toNat - c.toNat - c.toNat = a.toNat + b.toNat - 2 * c.toNat := by ring
  simp only [paeth, ha, hb, hc]

theorem paeth_self (k : Byte) : paeth k k k = k := by simp [paeth]

/-- At the left edge Paeth is Up: a tie goes to a, which then is 0 as b is. -/
theorem paeth_edge (b : Byte) : paeth 0#8 b 0#8 = b := by
  rw [paeth_eq]
  by_cases h : b = 0#8
  · simp [h]
  · have hb : b.toNat ≠ 0 := fun e => h (BitVec.eq_of_toNat_eq e)
    simp [hb]

/-- On the first scanline Paeth is Sub. -/
theorem paeth_firstRow (a : Byte) : paeth a 0#8 0#8 = a := by simp [paeth_eq]

/-- Settles O45: the distances in closed form, and the laws from them. -/
theorem paethPredictor : Obligations.PaethPredictor := ⟨paeth_eq, paeth_self, paeth_edge, paeth_firstRow⟩

end Sys2Proof.Machine
end

section
/-! PROOFS. The filter elements (R371, R372, R374 to R378, R381): each is a reconstruction with its predictor, which a
pending scanline and its neighbours let answer, and whose event is made as every scanline event. -/

namespace Sys2Proof.Machine

variable {s : State} {i : Instr} {pred : Byte → Byte → Byte → Byte} {ftype : Byte} {ins cur : List Byte}

theorem exec_filter (h : predictorOf i = some pred) (s : State) :
    ∃ looksLeft looksUp, exec i s = reconstruct looksLeft looksUp pred s := by
  cases i
  case fltNone => cases h; exact ⟨_, _, rfl⟩
  case fltSub => cases h; exact ⟨_, _, rfl⟩
  case fltUp => cases h; exact ⟨_, _, rfl⟩
  case fltAvg => cases h; exact ⟨_, _, rfl⟩
  case fltPaeth => cases h; exact ⟨_, _, rfl⟩
  all_goals cases h

/-- Whatever neighbours a filter reads, they are there (R35, R83). -/
theorem buffersOk_of_pending (looksLeft looksUp : Bool) (hp : s.flt.pend = ftype :: ins) (hl : ins.length = s.ihd.S)
    (hb : 0 < s.ihd.bpp ∨ s.ihd.S = 0) (hr : s.flt.row = 0#32 ∨ s.flt.prior.length = s.ihd.S) :
    buffersOk looksLeft looksUp s = true := by
  have hpend : s.ihd.S + 1 ≤ s.flt.pend.length := by simp [hp, hl]
  have hleft : decide (0 < s.ihd.bpp) = true ∨ decide (s.ihd.S = 0) = true := by simpa using hb
  have hup : firstRow s = true ∨ decide (s.ihd.S ≤ s.flt.prior.length) = true := by
    simpa [firstRow] using hr.imp_right Eq.ge
  simp only [buffersOk, Bool.and_eq_true, Bool.or_eq_true, decide_eq_true hpend]
  tauto

/-- The columns of a pending scanline are reconstructed from its bytes after the filter type. -/
theorem rowOf_pending (hp : s.flt.pend = ftype :: ins) (hl : ins.length = s.ihd.S) : rowOf pred s =
    filterRow pred s.ihd.bpp (decide (s.flt.row = 0#32)) s.flt.prior ins [] := by
  rw [rowOf, firstRow, hp, List.drop_one, List.tail_cons, ← hl, List.take_length]

/-- A delivered scanline whose port is ready is made in as many steps as its event has transfers; then it is the prior
one and the row has advanced (R64, R381). -/
theorem runSteps_deliver (hb : s.runState = .busy) (hh : s.host = []) (ho : s.offer = []) (hr : s.slReady = true) :
    runSteps (scanXfers s.flt.row cur).length (deliver cur s) = .next { s with
      log := s.log ++ scanXfers s.flt.row cur
      flt := { s.flt with pend := [], cur := cur, prior := cur, row := s.flt.row + 1#32 } } := by
  have hoffer : (deliver cur s).offer = scanXfers s.flt.row cur := by rw [deliver, ho, List.nil_append]
  have hport : ∀ x ∈ scanXfers s.flt.row cur, x.accepted (deliver cur s) = true := fun x hx => by
    obtain ⟨data, f, l, e, rfl⟩ := scanXfers_scan _ _ x hx
    exact hr
  rw [(runSteps_scanline (s := deliver cur s) hb hh hoffer hport (scanXfers_ends _ _)).2, ← ho]
  rfl

/-- Settles O42: the element is the delivery of the reconstructed scanline, and the run that of its event. -/
theorem filtersDeliverTheScanline : Obligations.FiltersDeliverTheScanline := by
  rintro s i pred ftype ins cur hi hp hl hb hr rfl
  obtain ⟨looksLeft, looksUp, hexec⟩ := exec_filter hi s
  rw [reconstruct, if_pos (buffersOk_of_pending looksLeft looksUp hp hl hb hr), rowOf_pending hp hl] at hexec
  exact ⟨hexec, fun hbusy hh ho hready => ⟨_, hexec, runSteps_deliver hbusy hh ho hready⟩⟩

end Sys2Proof.Machine
end

section
/-! PROOFS. After a latched filter error (R371, R380, R382): `Emit` drops the byte at the reconstructor, no element or
pass but the filters and the image header touches it, and the invariant excludes these two. -/

namespace Sys2Proof.Machine

variable {s t r : State} {i : Instr} {f : Fmt}

/-! ## Silence of the reconstructor (R382) -/

/-- From `s` to `t` the reconstructor and the transfers made stay as they were. -/
def Silent (s t : State) : Prop := t.flt = s.flt ∧ t.log = s.log

theorem Silent.trans (h : Silent s r) (h' : Silent r t) : Silent s t := ⟨h'.1.trans h.1, h'.2.trans h.2⟩

theorem ConsumesSome.silent (h : ConsumesSome s t) : Silent s t := by
  obtain ⟨n, h⟩ := h
  rw [h.frame]
  exact ⟨rfl, rfl⟩

theorem silent_latch (k : ErrKind) (s : State) : Silent s (latch k s) := ⟨latch_flt k s, latch_log k s⟩

/-- With the error latched a pushed byte is dropped. -/
theorem emit_flt_of_ferr (b : Byte) (h : s.flt.ferr = true) : (emit b s).flt = s.flt := by simp [emit_flt, h]

theorem silent_emit (b : Byte) (h : s.flt.ferr = true) : Silent s (emit b s) := ⟨emit_flt_of_ferr b h, emit_log b s⟩

theorem Pass.silent (hp : Pass s t) (h : s.flt.ferr = true) : Silent s t := by
  cases hp with
  | storedEnd _ ht => exact ht ▸ ⟨endBlock_flt s, endBlock_log s⟩
  | stored _ b r hr ht =>
    have hc := (currentGet_consumes hr).silent
    exact ht ▸ hc.trans (silent_emit (s := { r with inf := { r.inf with srem := r.inf.srem - 1 } }) b
      ((congrArg Flt.ferr hc.1).trans h))
  | copyEnd _ ht => exact ht ▸ ⟨rfl, rfl⟩
  | copied _ b ht => exact ht ▸ silent_emit (s := { s with inf := { s.inf with crem := s.inf.crem - 1 } }) b h
  | toChunk _ n _ ht => exact ht ▸ ⟨rfl, rfl⟩
  | runEnd _ n _ ht => exact ht ▸ ⟨rfl, rfl⟩
  | iend _ n _ ht => exact ht ▸ ⟨rfl, rfl⟩
  | raised k _ ht => exact ht ▸ silent_latch k s
  | held ht => exact ht ▸ ⟨rfl, rfl⟩

/-- Of the three kinds of elements that write the reconstructor only a literal is left, whose byte is dropped. -/
theorem exec_silent (h : s.flt.ferr = true) (hih : i.fmt ≠ .ih) (hfs : i.fmt ≠ .fs) (he : exec i s = .next t) :
    Silent s t := by
  obtain ⟨-, -, -, -, -, -, -, hlog, -⟩ := (onlyOffers_iff s t).mp (exec_onlyOffers i s t he)
  refine ⟨?_, hlog⟩
  by_cases hlit : ∃ b, i = .lit b
  · obtain ⟨b, rfl⟩ := hlit
    cases he
    exact emit_flt_of_ferr b h
  · exact (exec_fewWriters i s t he).flt (fun b hb => hlit ⟨b, hb⟩)
      (fun _ _ _ _ _ _ _ hi => hih (by rw [hi]; rfl)) hfs

/-- Once the error is latched an image header has been accepted, so none is read any more (R320). -/
theorem Inv.phase_ne_ihdr (h : Inv s) (he : s.flt.ferr = true) : s.phase ≠ .ihdr := fun hp => by
  obtain ⟨-, hv, -, -⟩ := h.scanlineBuffers.latched he
  exact absurd (hv.symm.trans (h.headerLegal.early (by rw [hp]; rfl))) nofun

/-- Once the error is latched nothing is offered (R382). -/
theorem Inv.offer_of_ferr (h : Inv s) (he : s.flt.ferr = true) : s.offer = [] := by
  obtain ⟨-, -, -, ho⟩ := h.scanlineBuffers.latched he
  exact ho

theorem BlockStep.silent (hb : BlockStep s t) (h : Inv s) (he : s.flt.ferr = true) : Silent s t := by
  cases hb with
  | idle _ ht => exact ht ▸ ⟨rfl, rfl⟩
  | drain _ x rest ho _ => exact absurd (ho.symm.trans (h.offer_of_ferr he)) nofun
  | scanline hr ho hd _ =>
    obtain ⟨-, -, -, hn⟩ := AtWork.due ⟨h, hr, ho⟩ hd
    exact absurd (he.symm.trans hn) nofun
  | element _ _ _ f hf i r hr ht =>
    have hc := (fetch_consumes hr).silent
    have hfmt := decode_fmt hr
    refine hc.trans (exec_silent ((congrArg Flt.ferr hc.1).trans he) (fun hi => ?_) (fun hi => ?_) ht)
    · exact h.phase_ne_ihdr he (phase_of_fmt (hf.trans (congrArg some (hfmt.symm.trans hi))) nofun)
    · exact Phase.fmt_ne_fs s.phase (hf.trans (congrArg some (hfmt.symm.trans hi)))
  | fail _ _ _ _ _ k _ ht => exact ht ▸ silent_latch k s
  | hold _ _ _ _ _ _ ht => exact ht ▸ ⟨rfl, rfl⟩
  | operation _ _ _ _ ht => exact (runOperation_pass t ht).silent he

/-- Nothing is offered either, by the invariant before and after the step. -/
theorem BlockStep.silent_offer (hb : BlockStep s t) (h : Inv s) (he : s.flt.ferr = true) :
    t.flt = s.flt ∧ t.log = s.log ∧ t.offer = s.offer := by
  obtain ⟨hflt, hlog⟩ := hb.silent h he
  have hafter : t.offer = [] := (hb.keepsInv h).offer_of_ferr ((congrArg Flt.ferr hflt).trans he)
  exact ⟨hflt, hlog, hafter.trans (h.offer_of_ferr he).symm⟩

/-- Settles O46: FLT.INV and `Emit` by their laws, every step by the silence of the block's own. -/
theorem filterErrorIsSticky : Obligations.FilterErrorIsSticky := by
  refine ⟨fun s b => rfl, fun s b hm he => ⟨emit_flt_of_ferr b he, ?_, by simp, ?_⟩, fun s t h he hs => ?_⟩
  · rw [emit_offer, if_pos hm]
  · rw [emit_adl, if_neg (by simp [hm])]
  · cases step_cases hs with
    | rst rest hh _ => exact .inl ⟨rest, hh⟩
    | start m _ rest hh _ _ _ => exact .inr (.inl ⟨m, rest, hh⟩)
    | xfer _ _ _ _ _ ht => exact .inr (.inr (ht ▸ ⟨rfl, rfl, rfl⟩))
    | inEnd _ _ ht => exact .inr (.inr (ht ▸ ⟨rfl, rfl, rfl⟩))
    | obReady _ _ _ ht => exact .inr (.inr (ht ▸ ⟨rfl, rfl, rfl⟩))
    | slReady _ _ _ ht => exact .inr (.inr (ht ▸ ⟨rfl, rfl, rfl⟩))
    | pass rest _ hb =>
      exact .inr (.inr (hb.silent_offer (h.setSurroundings s.inEnd s.fifo s.obReady s.slReady rest s.log) he))
    | own _ hb => exact .inr (.inr (hb.silent_offer h he))

end Sys2Proof.Machine
end

section
/-! PROOFS. Reads that fail (R11, R172, R206, R410, R465): what a ready block does, and that before the end flag no read
of the primary source fails with `EOF`, as each byte read of it answers a byte or waits. -/

namespace Sys2Proof

/-! ## Reads that do not end early -/

/-- The read does not fail with `EOF`, and the source keeps the property `I`. -/
def Rd.NotEof {σ α : Type} (I : σ → Prop) (r : Rd σ α) : Prop := r ≠ .eof ∧ ∀ v t, r = .got v t → I t

section

variable {σ α β : Type} {I : σ → Prop} {R : Reader σ} {s : σ} {c : Ctx} {f : Fmt}

theorem Rd.NotEof.got {v : α} (h : I s) : (Rd.got v s).NotEof I := ⟨nofun, fun _ _ e => by cases e; exact h⟩

theorem Rd.NotEof.corrupt : (Rd.corrupt : Rd σ α).NotEof I := ⟨nofun, nofun⟩

theorem Rd.NotEof.wait : (Rd.wait : Rd σ α).NotEof I := ⟨nofun, nofun⟩

theorem Rd.NotEof.bind {r : Rd σ α} {g : α → σ → Rd σ β} (h : r.NotEof I) (hg : ∀ v t, I t → (g v t).NotEof I) :
    (r.bind g).NotEof I := by
  cases r with
  | got v t => exact hg v t (h.2 v t rfl)
  | eof => exact absurd rfl h.1
  | corrupt => exact .corrupt
  | wait => exact .wait

theorem Rd.NotEof.map {r : Rd σ α} {g : α → β} (h : r.NotEof I) : (r.map g).NotEof I := h.bind fun _ _ => .got

theorem readBE_notEof (hbyte : ∀ s, I s → (R.byte s).NotEof I) :
    ∀ (n v : Nat) (s : σ), I s → (readBE R n v s).NotEof I
  | 0, _, _, h => .got h
  | n + 1, _, s, h => (hbyte s h).bind fun _ t => readBE_notEof hbyte n _ t

theorem huffBits_notEof (hbits : ∀ n s, I s → (R.bits n s).NotEof I) :
    ∀ (n c : Nat) (s : σ), I s → (huffBits R n c s).NotEof I
  | 0, _, _, h => .got h
  | n + 1, _, s, h => (hbits 1 s h).bind fun _ t => huffBits_notEof hbits n _ t

theorem decodeLoop_notEof (hbits : ∀ n s, I s → (R.bits n s).NotEof I) (T : HufTable) (fuel L c : Nat) (s : σ)
    (h : I s) : (decodeLoop R T fuel L c s).NotEof I := by
  induction fuel generalizing L c s with
  | zero =>
    unfold decodeLoop
    cases T.lookup L c with
    | none => exact .corrupt
    | some i => exact .got h
  | succ fuel ih =>
    unfold decodeLoop
    cases T.lookup L c with
    | none => exact (hbits 1 s h).bind fun _ t => ih _ _ t
    | some i => exact .got h

theorem decodeSymbol_notEof (hbits : ∀ n s, I s → (R.bits n s).NotEof I) (T : HufTable) (h : I s) :
    (decodeSymbol R T s).NotEof I :=
  (huffBits_notEof hbits _ _ s h).bind fun _ t => decodeLoop_notEof hbits T _ _ _ t

theorem readCll_notEof (hbits : ∀ n s, I s → (R.bits n s).NotEof I) :
    ∀ (n : Nat) (s : σ), I s → (readCll R n s).NotEof I
  | 0, _, h => .got h
  | n + 1, s, h => (hbits 3 s h).bind fun _ t ht => (readCll_notEof hbits n t ht).map

/-- The DEFLATE formats are read in bits only: where no bit read ends early, neither does their decode. -/
theorem decode_notEof_bits (hbits : ∀ n s, I s → (R.bits n s).NotEof I)
    (hf : f ∈ [Fmt.bh, .sh, .dh, .cll, .cls, .lls, .ds]) (h : I s) : (decode R c f s).NotEof I := by
  have b {n s} (h : I s) : (R.bits n s).NotEof I := hbits n s h
  fin_cases hf
  · exact (b h).bind fun _ _ h => (b h).map
  · exact (b h).bind fun _ _ h => (b h).map
  · exact (b h).bind fun _ _ h => (b h).bind fun _ _ h => (b h).map
  · exact (readCll_notEof hbits _ s h).map
  all_goals
    refine (decodeSymbol_notEof hbits _ h).bind fun _ _ h => ?_
    repeat' split
    all_goals first | exact .got h | exact .corrupt | exact (b h).map

/-- The framing formats are read in bytes only: where no byte read ends early, neither does their decode. -/
theorem decode_notEof_bytes (hbyte : ∀ s, I s → (R.byte s).NotEof I)
    (hf : f ∈ [Fmt.zh, .zd, .zt, .sig, .ch, .ih, .fs]) (h : I s) : (decode R c f s).NotEof I := by
  have b {s} (h : I s) : (R.byte s).NotEof I := hbyte s h
  have be {n s} (h : I s) : (readBE R n 0 s).NotEof I := readBE_notEof hbyte n 0 s h
  fin_cases hf
  · exact (b h).bind fun _ _ h => (b h).map
  · exact (be h).map
  · exact (be h).map
  · exact (be h).map
  · exact (be h).bind fun _ _ h => (be h).map
  · exact (be h).bind fun _ _ h => (be h).bind fun _ _ h => (b h).bind fun _ _ h => (b h).bind fun _ _ h =>
      (b h).bind fun _ _ h => (b h).bind fun _ _ h => (b h).map
  · exact (b h).map

end

namespace Machine

variable {s : State} {f : Fmt} {n : Nat}

/-! ## Reads of the primary source before the end flag (R61, R465) -/

theorem primaryGet_notEof (h : s.inEnd = false) : (primaryGet s).NotEof fun t => t.inEnd = false := by
  cases hf : s.fifo with
  | nil => rw [primaryGet_nil hf, h]; exact .wait
  | cons b rest => rw [primaryGet_cons hf]; exact .got h

/-- Outside mode 2 the input of the decoder is the primary source, and its end is not known. -/
def OpenInput (s : State) : Prop := s.inEnd = false ∧ s.mode ≠ .png

theorem currentGet_notEof (h : OpenInput s) : (currentGet s).NotEof OpenInput := by
  refine ⟨?_, fun b t hg => ?_⟩
  · rw [currentGet_primary h.2]
    exact (primaryGet_notEof h.1).1
  · have hc := currentGet_consumes hg
    exact ⟨hc.inEnd.trans h.1, hc.mode ▸ h.2⟩

theorem refill_notEof (fuel : Nat) (h : OpenInput s) : (refill n fuel s).NotEof OpenInput := by
  induction fuel generalizing s with
  | zero => exact .got h
  | succ fuel ih =>
    unfold refill
    split
    · exact (currentGet_notEof h).bind fun _ _ ht => ih ht
    · exact .got h

theorem getDataBits_notEof (n : Nat) (h : OpenInput s) : (getDataBits n s).NotEof OpenInput :=
  (refill_notEof n h).bind fun _ _ ht => .got ht

theorem fetch_png_ne_eof (hf : f ∈ [Fmt.sig, .ch, .ih]) (h : s.inEnd = false) : fetch f s ≠ .eof := by
  rw [fetch, readerOf_png hf]
  exact (decode_notEof_bytes (R := primaryReader) (fun _ => primaryGet_notEof)
    (List.mem_append_right [.zh, .zd, .zt] (List.mem_append_left [.fs] hf)) h).1

theorem fetch_ne_eof (hf : f ≠ .fs) (h : OpenInput s) : fetch f s ≠ .eof := by
  have hgroup : f ∈ [Fmt.bh, .sh, .dh, .cll, .cls, .lls, .ds] ∨ f ∈ [Fmt.zh, .zd, .zt] ∨ f ∈ [Fmt.sig, .ch, .ih] := by
    cases f <;> simp at hf ⊢
  obtain hf | hf | hf := hgroup
  · rw [fetch, readerOf_deflate hf]
    exact (decode_notEof_bits (R := streamReader) (fun n _ => getDataBits_notEof n) hf h).1
  · rw [fetch, readerOf_zlib hf]
    exact (decode_notEof_bytes (R := streamReader) (fun _ => currentGet_notEof)
      (List.mem_append_left [.sig, .ch, .ih, .fs] hf) h).1
  · exact fetch_png_ne_eof hf h.1

/-! ## A ready block whose read fails -/

theorem step_element (h : Ready s) (hf : s.phase.fmt = some f) : step s = runElement f s := by
  simp only [step_eq_runNext h.busy h.drained h.noHost, runNext, h.noScanline, hf, Bool.false_eq_true, if_false]

theorem runElement_eof (hr : fetch f s = .eof) : runElement f s = .next (latch (eofKind f) s) := by
  simp only [runElement, hr, raise]

theorem runElement_corrupt (hr : fetch f s = .corrupt) :
    runElement f s = .next (latch (.deflate .corruptSymbol) s) := by
  simp only [runElement, hr, raise]

theorem runElement_wait (hr : fetch f s = .wait) : runElement f s = .next s := by
  simp only [runElement, hr]

theorem eofKind_deflate (hf : f ∈ [Fmt.bh, .sh, .dh, .cll, .cls, .lls, .ds]) :
    eofKind f = .deflate .endOfStream := by fin_cases hf <;> rfl

theorem eofKind_zlib (hf : f ∈ [Fmt.zh, .zd, .zt]) : eofKind f = .zlib .prematureEndOfStream := by
  fin_cases hf <;> rfl

theorem eofKind_png (hf : f ∈ [Fmt.sig, .ch, .ih]) : eofKind f = .png .prematureEndOfFile := by
  fin_cases hf <;> rfl

/-- Settles O13: the step is the element of the phase; before the end flag its reads answer or wait. -/
theorem failedReadsLatchOrHold : Obligations.FailedReadsLatchOrHold := by
  intro s f hf
  refine ⟨fun h hr hd => ?_, fun h hr hz => ?_, fun h hr hp => ?_, fun h hr => ?_, fun h hr => ?_, fun h hm => ?_⟩
  · rw [step_element h hf, runElement_eof hr, eofKind_deflate hd]
  · rw [step_element h hf, runElement_eof hr, eofKind_zlib hz]
  · rw [step_element h hf, runElement_eof hr, eofKind_png hp]
  · rw [step_element h hf, runElement_corrupt hr]
  · rw [step_element h hf, runElement_wait hr]
  · have hfs : f ≠ .fs := fun e => Phase.fmt_ne_fs s.phase (e ▸ hf)
    exact hm.elim (fun hm => fetch_ne_eof hfs ⟨h, hm⟩) (fun hp => fetch_png_ne_eof hp h)

end Machine
end Sys2Proof
end

section
/-! PROOFS. The error latch register by register, by layer and mode (R401 to R403, R411, R412, R430). -/

namespace Sys2Proof.Machine

variable {s : State}

theorem latch_deflate_zlib (k : DeflErr) (h : s.mode = .zlib) :
    latch (.deflate k) s = { s with runState := .done, derr := k.code, zerr := 4#3 } := by
  simp only [latch, h, deflateErrorCode]

theorem latch_deflate_rawDeflate (k : DeflErr) (h : s.mode = .rawDeflate) :
    latch (.deflate k) s = { s with runState := .done, derr := k.code } := by
  simp only [latch, h]

theorem latch_deflate_png (k : DeflErr) (h : s.mode = .png) :
    latch (.deflate k) s = { s with runState := .done, derr := k.code, zerr := 4#3, perr := 12#4 } := by
  simp only [latch, h, deflateErrorCode, zlibErrorCode]

theorem latch_zlib_of_ne_png (k : ZlibErr) (h : s.mode ≠ .png) :
    latch (.zlib k) s = { s with runState := .done, zerr := k.code } := by
  cases hm : s.mode with
  | png => exact absurd hm h
  | rawDeflate | zlib => simp only [latch, hm]

theorem latch_zlib_png (k : ZlibErr) (h : s.mode = .png) :
    latch (.zlib k) s = { s with runState := .done, zerr := k.code, perr := 12#4 } := by
  simp only [latch, h, zlibErrorCode]

/-- Settles O47: each layer's latch by mode; the codes are a finite table. -/
theorem latchWritesTheRegisters : Obligations.LatchWritesTheRegisters :=
  ⟨fun _ k => ⟨latch_deflate_rawDeflate k, latch_deflate_zlib k, latch_deflate_png k⟩,
    fun _ k => ⟨latch_zlib_of_ne_png k, latch_zlib_png k⟩, fun _ _ => rfl, by decide, by decide, by decide⟩

end Sys2Proof.Machine
end

section
/-! PROOFS. The image header (R350 to R361): the pairs of R353 and the bytes per pixel of R358 against the table, and the
next state of an accepted and of a rejected payload in full. -/

namespace Sys2Proof.Machine

variable {s : State} {colour depth : Byte} {bpp : Nat} {i : Ihd}

/-! ## The pairs of colour type and bit depth (R353, R358) -/

theorem colourDepthOk_iff (colour depth : Byte) :
    colourDepthOk colour depth = true ↔ (colour, depth) ∈ pixelFormats.map fun p => (p.1, p.2.1) := by
  simp only [colourDepthOk, pixelFormats, Bool.and_eq_true, Bool.or_eq_true, decide_eq_true_eq, List.map_cons,
    List.map_nil, List.mem_cons, Prod.mk.injEq, List.not_mem_nil]
  tauto

theorem bytesPerPixel_of_mem (h : (colour, depth, bpp) ∈ pixelFormats) : bytesPerPixel colour depth = bpp := by
  simp only [pixelFormats, List.mem_cons, Prod.mk.injEq, List.not_mem_nil, or_false] at h
  rcases h with h | h | h | h | h | h | h | h <;> obtain ⟨rfl, rfl, rfl⟩ := h <;> rfl

/-! ## The six checks (R351 to R357) -/

/-- The checks in their order, the third by the table of R358. -/
theorem ihdrCheck_eq (i : Ihd) : ihdrCheck i =
    if 0x7FFFFFFF < i.width.toNat then some .invalidWidth
    else if 0x7FFFFFFF < i.height.toNat then some .invalidHeight
    else if (i.colour, i.depth) ∉ pixelFormats.map (fun p => (p.1, p.2.1)) then some .invalidColorTypeAndBitDepth
    else if i.comp ≠ 0#8 then some .unsupportedCompressionMethod
    else if i.filt ≠ 0#8 then some .unsupportedFilterMethod
    else if i.ilace ≠ 0#8 then some .unsupportedInterlaceMethod
    else none := by
  simp only [ihdrCheck, gt_iff_lt, ← colourDepthOk_iff, Bool.not_eq_true]

theorem ihdrCheck_eq_none (hw : i.width.toNat ≤ 0x7FFFFFFF) (hh : i.height.toNat ≤ 0x7FFFFFFF)
    (hp : (i.colour, i.depth, bpp) ∈ pixelFormats) (hc : i.comp = 0#8) (hf : i.filt = 0#8) (hl : i.ilace = 0#8) :
    ihdrCheck i = none := by
  have hpair : (i.colour, i.depth) ∈ pixelFormats.map fun p => (p.1, p.2.1) := List.mem_map_of_mem hp
  rw [ihdrCheck_eq, if_neg hw.not_gt, if_neg hh.not_gt, if_neg (not_not.2 hpair), if_neg (not_not.2 hc),
    if_neg (not_not.2 hf), if_neg (not_not.2 hl)]

/-! ## The payload (R350, R358 to R361) -/

/-- `s` with the seven fields of the payload in their registers (R350). -/
def headerFields (width height : Word) (depth colour comp filt ilace : Byte) (s : State) : State :=
  { s with ihd := { s.ihd with
      width := width, height := height, depth := depth, colour := colour, comp := comp, filt := filt
      ilace := ilace } }

theorem execIhdrPayload_rejected {width height : Word} {comp filt ilace : Byte} {kind : PngErr}
    (h : ihdrCheck (headerFields width height depth colour comp filt ilace s).ihd = some kind) :
    execIhdrPayload width height depth colour comp filt ilace s =
      .next (latch (.png kind) (headerFields width height depth colour comp filt ilace s)) := by
  unfold execIhdrPayload
  dsimp only
  split
  next hk => cases h.symm.trans hk; rfl
  next hk => cases h.symm.trans hk

/-- With no `S_MAX` every header that passes the checks is accepted (D39). -/
theorem execIhdrPayload_accepted {width height : Word} {comp filt ilace : Byte}
    (h : ihdrCheck (headerFields width height depth colour comp filt ilace s).ihd = none) :
    execIhdrPayload width height depth colour comp filt ilace s =
      .next (acceptIhdr (headerFields width height depth colour comp filt ilace s)) := by
  unfold execIhdrPayload
  dsimp only
  split
  next hk => cases h.symm.trans hk
  next => rfl

/-- Settles O39: the header passes the checks, and the table gives its `bpp`. -/
theorem imageHeaderAccepted : Obligations.ImageHeaderAccepted := by
  intro s width height depth colour bpp hw hh hp
  have hexec := execIhdrPayload_accepted (s := s) (depth := depth) (colour := colour) (comp := 0#8) (filt := 0#8)
    (ilace := 0#8) (ihdrCheck_eq_none hw hh hp rfl rfl rfl)
  rw [← bytesPerPixel_of_mem hp]
  exact hexec

/-- Settles O40: the conditions are the checks of the model, in the same order. -/
theorem imageHeaderRejected : Obligations.ImageHeaderRejected :=
  fun _ _ _ _ _ _ _ _ _ h => execIhdrPayload_rejected ((ihdrCheck_eq _).trans h.symm)

end Sys2Proof.Machine
end

section
/-! PROOFS. Reset and start (R41, R450 to R452), the ports (R464, R62 to R64, R381) and DONE (R431, R433): what the
host's actions and the drain of an offered transfer leave. -/

namespace Sys2Proof.Machine

variable {s t : State} {x : OutXfer} {rest : List OutXfer}

/-! ## Reset (R41, R450) -/

/-- No reset value is one of the surroundings of the ports. -/
theorem hasResetValues_hostReset (s : State) : HasResetValues (hostReset s) := by
  repeat' apply And.intro
  all_goals rfl

/-- Settles O49: a reset gives the values whatever the state was; the state after power-on is a reset of itself. -/
theorem resetValues : Obligations.ResetValues :=
  ⟨hasResetValues_hostReset State.reset, fun _ _ h => ⟨_, step_host h, hasResetValues_hostReset _⟩⟩

/-! ## Start (R451, R452, R455) -/

theorem modeOf_eq {m : BitVec 2} (h : m ≠ 3#2) :
    modeOf m = some (if m = 0#2 then .rawDeflate else if m = 1#2 then .zlib else .png) := by
  revert m
  decide

theorem hostStart_busy (m : BitVec 2) (h : s.runState = .busy) : hostStart m s = .fault .startWhileBusy := if_pos h

theorem hostStart_reserved (h : s.runState ≠ .busy) : hostStart 3#2 s = .fault .startReservedMode := if_neg h

theorem hostStart_mode {m : BitVec 2} {mode : Mode} (h : s.runState ≠ .busy) (hm : modeOf m = some mode) :
    hostStart m s = .next (startState mode s) := by
  simp only [hostStart, if_neg h, hm]

theorem firstPhase_start (m : BitVec 2) :
    firstPhase (if m = 0#2 then .rawDeflate else if m = 1#2 then .zlib else .png) =
      if m = 0#2 then .blockHdr else if m = 1#2 then .zlibHdr else .sig := by
  split_ifs <;> rfl

/-- Settles O50: the three answers of a start; the mode decides the first element. -/
theorem startBeginsARun : Obligations.StartBeginsARun := by
  intro s m rest h
  rw [step_host h, hostStep]
  refine ⟨fun hb => hostStart_busy m (by exact hb), fun hb hm => ?_, fun hb hm => ?_⟩
  · rw [hm, hostStart_reserved (by exact hb)]
  · rw [hostStart_mode (by exact hb) (modeOf_eq hm), startState, firstPhase_start]
    rfl

/-! ## The ports (R62 to R64, R464) -/

theorem drain_held (h : x.accepted s = false) : drain x rest s = s := by
  simp only [drain, h, Bool.false_eq_true, if_false]

theorem drain_made (h : x.accepted s = true) : drain x rest s = { s with
    offer := rest, log := s.log ++ [x]
    flt := if x.endsScanline then { s.flt with pend := [], prior := s.flt.cur, row := s.flt.row + 1#32 }
      else s.flt } := by
  obtain ⟨hn, -⟩ | ⟨-, he, e⟩ | ⟨-, he, e⟩ := drain_cases x rest s
  · exact absurd (hn.symm.trans h) nofun
  · rw [e, he]
    rfl
  · rw [e, he]
    rfl

/-- The port of a byte and that of a scanline's column have a ready signal; that of the IHDR event has none. -/
theorem accepted_of_ready (hb : ∀ b, x = .byte b → s.obReady = true)
    (hs : ∀ row data f l e, x = .scan row data f l e → s.slReady = true) : x.accepted s = true := by
  cases x with
  | byte b => exact hb b rfl
  | ihdr => rfl
  | scan row data f l e => exact hs row data f l e rfl

/-- Settles O52: the step is the drain, which holds or makes the transfer by its port's ready signal. -/
theorem backPressureHolds : Obligations.BackPressureHolds := by
  intro s x rest hb hh ho
  rw [step_drain hb hh ho]
  refine ⟨fun b hx hr => ?_, fun row data f l e hx hr => ?_, fun hbyte hscan => ?_⟩
  · rw [hx, drain_held (by exact hr)]
  · rw [hx, drain_held (by exact hr)]
  · rw [drain_made (accepted_of_ready hbyte hscan)]

/-! ## DONE (R431, R433) -/

/-- A block that is not BUSY does nothing of its own. -/
theorem BlockStep.eq_of_not_busy (hb : BlockStep s t) (h : s.runState ≠ .busy) : t = s := by
  cases hb with
  | idle _ ht => exact ht
  | drain hr | scanline hr | element hr | fail hr | hold hr | operation hr => exact absurd hr h

/-- Settles O48: in DONE only the host acts, and but for reset and start it only changes its own schedule and signals. -/
theorem doneIsLeftByResetOrStart : Obligations.DoneIsLeftByResetOrStart := by
  intro s t hd hs
  have hn : s.runState ≠ .busy := by simp [hd]
  cases step_cases hs with
  | rst rest hh _ => exact .inl ⟨rest, hh⟩
  | start m _ rest hh _ _ _ => exact .inr (.inl ⟨m, rest, hh⟩)
  | xfer _ _ _ hb _ _ => exact absurd hb hn
  | inEnd _ _ ht => exact .inr (.inr (ht ▸ ⟨hd, rfl, rfl, rfl, rfl, rfl, rfl, rfl⟩))
  | obReady _ _ _ ht => exact .inr (.inr (ht ▸ ⟨hd, rfl, rfl, rfl, rfl, rfl, rfl, rfl⟩))
  | slReady _ _ _ ht => exact .inr (.inr (ht ▸ ⟨hd, rfl, rfl, rfl, rfl, rfl, rfl, rfl⟩))
  | pass rest _ hb =>
    obtain rfl : t = { s with host := rest } := hb.eq_of_not_busy hn
    exact .inr (.inr ⟨hd, rfl, rfl, rfl, rfl, rfl, rfl, rfl⟩)
  | own _ hb =>
    obtain rfl : t = s := hb.eq_of_not_busy hn
    exact .inr (.inr ⟨hd, rfl, rfl, rfl, rfl, rfl, rfl, rfl⟩)

end Sys2Proof.Machine
end
